-- ==== Sys2Proof/Word.lean ====
section
/-! DEFINITION. The bit vectors of the hardware: the byte handed to the bus, one color channel, the
3-bit operation selector and the packed triple. Everything else of the block is a count, a list or a
name (spec/00_scope.md section 5). -/

namespace Sys2Proof

/-- A Byte, integer 0..255 (spec/00_scope.md section 5). Bit 7 is the most significant bit (R10). -/
abbrev Byte := BitVec 8

/-- A Chan, integer 0..255, one color channel (R46). -/
abbrev Chan := BitVec 8

/-- The operation selector `op[2:0]` of a request (R58). -/
abbrev Selector := BitVec 3

/-- The packed form `rgb24` of a triple (R47). -/
abbrev Word24 := BitVec 24

end Sys2Proof
end

