-- ==== Sys2Proof/Config.lean ====
section
/-! DEFINITION. What is fixed for the machine: the constants the source gives (R6, R7, R52), the wire
modes (R34), and the free values for what the spec leaves unspecified. The parameters that differ
between two instances of the block (WIRE_MODE, RESET_UNITS, CHAIN_LEN, device_ok) are plain data of
State (`Machine.Platform`), so that a statement about every state speaks of every platform. -/

namespace Sys2Proof

/-- WIRE_MODE: how a payload byte appears on the data line (R34). -/
inductive WireMode where
  /-- 8 periods, `v[7]` first (the spec's named default, D2) -/
  | w8Msb
  /-- 8 periods, `v[0]` first -/
  | w8Lsb
  /-- 3 periods, `v[2], v[1], v[0]` -/
  | w3Msb
deriving DecidableEq, Repr

/-- RESET_PADDING: the number of zero bytes that end every payload (R6). -/
def Config.resetPadding : Nat := 64

/-- SYM_ONE: the symbol byte of a data bit 1 (R7). -/
def Config.symOne : Byte := 0x06#8

/-- SYM_ZERO: the symbol byte of a data bit 0 (R7). -/
def Config.symZero : Byte := 0x04#8

/-- PAD_BYTE: the byte of the reset block (R7). -/
def Config.padByte : Byte := 0x00#8

/-- CHANNELS_PER_LED × BITS_PER_CHANNEL: symbol bytes of one LED (R52). -/
def Config.bytesPerLed : Nat := 24

/-- The named default of WIRE_MODE (D2, R34). -/
def Config.defaultWireMode : WireMode := .w8Msb

/-- FREE VALUE (log entry 9): the bit at a place of the chain's `shadow` when the spec calls it
unspecified (R27, R43); arguments: number of the draw, bit position. -/
opaque Config.freeBit : Nat → Nat → Bool

/-- FREE VALUE (log entry 9): a channel of an LED's color when the spec calls `display` unspecified
(R27, R43, U7, U8); arguments: number of the draw, LED, channel slot. -/
opaque Config.freeChan : Nat → Nat → Nat → Chan

/-- FREE VALUE (log entry 15): how a transaction ends for its requester when it overlapped another
(R95 gives it no meaning); argument: number of the draw. `none` is `ok`, `some c` a
`TransferError` with cause `c`. -/
opaque Config.overlapResult : Nat → Option Nat

end Sys2Proof
end

