-- ==== Sys2Proof/Syntax.lean ====
section
/-! DEFINITION. Operands, encodings and instructions: RGB triples, the brightness, Frames, payloads
(spec/30_encoding.md sections 1 and 2), what the operand port OPND can carry (R57), and `Instr`, one
constructor per row of spec/opcode_table.json. -/

namespace Sys2Proof

/-- An RGB triple in input order: red, green, blue (R47). -/
structure Rgb where
  r : Chan
  g : Chan
  b : Chan
deriving DecidableEq, Repr

/-- A triple in transmission order: green, red, blue (R31). -/
structure Grb where
  g : Chan
  r : Chan
  b : Chan
deriving DecidableEq, Repr

/-- A non-negative rational `num / den` (R48); brightness and bus speed are of this form. -/
structure Ratio where
  num : Nat
  den : Nat
deriving DecidableEq, Repr

/-- A Frame: the triple wanted for each LED (R49). -/
abbrev Frame := List Rgb

/-- A Fragment: the symbol bytes of one LED (R52). -/
abbrev Fragment := List Byte

/-- A payload: the bytes of one transaction (R53). -/
abbrev Payload := List Byte

/-- BUS_DEVICE is an opaque name (R8, R16): a token the model only looks up. -/
abbrev DeviceName := Nat

/-- A triple as it stands on the operand port, before the range check of R101. -/
structure RawRgb where
  r : Int
  g : Int
  b : Int
deriving DecidableEq, Repr

/-- The configuration values as they stand on the operand port (R81), before any check. -/
structure RawConfig where
  ledCount : Int
  num : Int
  den : Int
  device : Option DeviceName
  speed : Ratio
deriving DecidableEq, Repr

/-- What the operand port OPND can carry (R57), in the forms the spec names. -/
inductive Operand where
  /-- "none" (SHUTDOWN) -/
  | none
  /-- the configuration values (INIT) -/
  | config (c : RawConfig)
  /-- one RGB triple, three separate fields (ENCODE_LED) -/
  | triple (t : RawRgb)
  /-- one RGB triple packed as `rgb24` (ENCODE_LED, R47) -/
  | rgb24 (w : Word24)
  /-- a sequence of triples (ENCODE_FRAME, SHOW) -/
  | frame (f : List RawRgb)
  /-- a sequence of bytes (TRANSFER) -/
  | payload (p : List Int)
deriving DecidableEq, Repr

/-- The hardware's instructions: the six request operations (R57) and the three code-book bytes the
framer emits (R50, R51). -/
inductive Instr where
  | init (ledCount : Nat) (brightness : Ratio) (device : Option DeviceName) (speed : Ratio)
  | encodeLed (t : Rgb)
  | encodeFrame (f : Frame)
  | transfer (p : Payload)
  | showFrame (f : Frame)
  | shutdown
  | symZero
  | symOne
  | padByte
deriving DecidableEq, Repr

/-- An encoded instruction, in one of the two spaces of spec/30_encoding.md: a request on the request
port, or a byte of the payload being sent. -/
inductive Encoded where
  | request (op : Selector) (opnd : Operand)
  | payloadByte (v : Byte)
deriving DecidableEq, Repr

/-- Why the decoder reads no instruction. -/
inductive DecodeError where
  /-- selector 110 or 111 (R59) -/
  | unknownSelector (op : Selector)
  /-- the operand port does not hold the kind of operand the operation takes (R15, R57; that this is
  refused is log entry 30) -/
  | operandMismatch
  /-- a channel outside 0..255 (R101) -/
  | channelOutOfRange
  /-- led_count not a natural, brightness outside [0, 1] (R81, R101), or a bus speed that is no positive rate
  (R16, log entry 24) -/
  | illegalParameter
  /-- an element of a payload operand that is no byte (R83) -/
  | notAByte
  /-- a payload byte that is neither symbol nor pad (R54) -/
  | unknownByte (v : Byte)
deriving DecidableEq, Repr

/-- What a payload position carries (R18, R29): a data bit of an LED's channel slot
(0 = green, 1 = red, 2 = blue), or a pad byte of the reset block. -/
inductive ByteRole where
  | data (led slot bit : Nat)
  | pad (n : Nat)
deriving DecidableEq, Repr

end Sys2Proof
end

