-- ==== Sys2Proof/WellFormed.lean ====
section
/-! DEFINITION. Which terms of `Instr` are instructions: the operand domains of R48, R16 and R54 that
the types do not already say. What depends on the configuration (R35, R83) is checked by the machine
when the request runs. -/

namespace Sys2Proof

/-- A legal brightness: `den > 0` and `0 ≤ num ≤ den` (R48). -/
def Ratio.isBrightness (b : Ratio) : Bool := 0 < b.den && b.num ≤ b.den

/-- A positive rate, the type of `CFG.BUS_SPEED` (R16, R8). -/
def Ratio.isRate (b : Ratio) : Bool := 0 < b.den && 0 < b.num

/-- The byte is one of the three of the code book (R54). -/
def isCodeByte (v : Byte) : Bool :=
  v == Config.symZero || v == Config.symOne || v == Config.padByte

/-- A list of bytes of the code book whose length is `24 × n + 64` for some `n` (R53, R54). -/
def hasPayloadShape (p : Payload) : Bool :=
  p.all isCodeByte && Config.resetPadding ≤ p.length
    && (p.length - Config.resetPadding) % Config.bytesPerLed == 0

/-- The instruction's operands lie in their domains (R101, premise `InRange` of R129). -/
def Instr.wellFormed : Instr → Bool
  | .init _ b _ v => b.isBrightness && v.isRate
  | .encodeLed _ => true
  | .encodeFrame _ => true
  | .transfer p => hasPayloadShape p
  | .showFrame _ => true
  | .shutdown => true
  | .symZero => true
  | .symOne => true
  | .padByte => true

end Sys2Proof
end

