-- ==== Sys2Proof/Decode.lean ====
section
/-! DEFINITION. The decoder, total on every request and every byte, and after it the encoder, both
from the encoding tables of spec/30_encoding.md (R46 to R59). The block has TWO encoding spaces
(spec/30_encoding.md, opening): the 3-bit selector of the request port, with the operand on OPND, and
the 8-bit bytes of a payload. Which one is read is a matter of the port, never of the bits. -/

namespace Sys2Proof

/-! ### Operands -/

/-- An integer as a channel value or a byte, if it is in 0..255 (R46, R101: never clamped or wrapped). -/
def byteOfInt? (x : Int) : Option Byte :=
  if 0 ≤ x ∧ x ≤ 255 then some (BitVec.ofNat 8 x.toNat) else none

/-- A triple of the operand port, if all three channels are in range (R101). -/
def RawRgb.toRgb? (t : RawRgb) : Option Rgb :=
  match byteOfInt? t.r, byteOfInt? t.g, byteOfInt? t.b with
  | some r, some g, some b => some ⟨r, g, b⟩
  | _, _, _ => none

/-- The triple as the operand port carries it. -/
def Rgb.toRaw (t : Rgb) : RawRgb := ⟨t.r.toNat, t.g.toNat, t.b.toNat⟩

/-- `rgb24[23:16] = r`, `rgb24[15:8] = g`, `rgb24[7:0] = b` (R47). -/
def Rgb.ofWord24 (w : Word24) : Rgb :=
  ⟨w.extractLsb' 16 8, w.extractLsb' 8 8, w.extractLsb' 0 8⟩

/-- The packed form of a triple (R47). -/
def Rgb.toWord24 (t : Rgb) : Word24 := t.r ++ t.g ++ t.b

/-- A sequence of triples, if every one is in range (R101). -/
def frameOfRaw? : List RawRgb → Option Frame
  | [] => some []
  | t :: ts =>
    match t.toRgb?, frameOfRaw? ts with
    | some c, some cs => some (c :: cs)
    | _, _ => none

/-- A sequence of bytes, if every element is a byte (R83). -/
def payloadOfRaw? : List Int → Option Payload
  | [] => some []
  | x :: xs =>
    match byteOfInt? x, payloadOfRaw? xs with
    | some v, some vs => some (v :: vs)
    | _, _ => none

/-- The configuration values, if `led_count` is a natural, `0 ≤ brightness ≤ 1` (R81, R101) and the bus
speed is a positive rate (the type of `CFG.BUS_SPEED`, R16; that INIT refuses another is log entry 24). -/
def initOfRaw? (c : RawConfig) : Option Instr :=
  if 0 ≤ c.ledCount ∧ 0 < c.den ∧ 0 ≤ c.num ∧ c.num ≤ c.den ∧ c.speed.isRate = true then
    some (.init c.ledCount.toNat ⟨c.num.toNat, c.den.toNat⟩ c.device c.speed)
  else none

/-! ### The two spaces -/

/-- What the request port asks for (R57, R58, R59). A request whose OPND holds another kind of value than its
operation takes, SHUTDOWN's included, which takes none, is refused: DESIGN CHOICE (log entry 30), since
R15 and R57 say what each operation takes and not what happens with anything else. -/
def decodeRequest (op : Selector) (o : Operand) : Except DecodeError Instr :=
  if op = 0b000#3 then
    match o with
    | .config c => match initOfRaw? c with | some i => .ok i | none => .error .illegalParameter
    | _ => .error .operandMismatch
  else if op = 0b001#3 then
    match o with
    | .triple t => match t.toRgb? with | some c => .ok (.encodeLed c) | none => .error .channelOutOfRange
    | .rgb24 w => .ok (.encodeLed (Rgb.ofWord24 w))
    | _ => .error .operandMismatch
  else if op = 0b010#3 then
    match o with
    | .frame f => match frameOfRaw? f with | some f => .ok (.encodeFrame f) | none => .error .channelOutOfRange
    | _ => .error .operandMismatch
  else if op = 0b011#3 then
    match o with
    | .payload p => match payloadOfRaw? p with | some p => .ok (.transfer p) | none => .error .notAByte
    | _ => .error .operandMismatch
  else if op = 0b100#3 then
    match o with
    | .frame f => match frameOfRaw? f with | some f => .ok (.showFrame f) | none => .error .channelOutOfRange
    | _ => .error .operandMismatch
  else if op = 0b101#3 then
    match o with
    | .none => .ok .shutdown
    | _ => .error .operandMismatch
  else .error (.unknownSelector op)

/-- What a payload byte is to the framer (R50, R51, R54). -/
def decodeByte (v : Byte) : Except DecodeError Instr :=
  if v = 0x04#8 then .ok .symZero
  else if v = 0x06#8 then .ok .symOne
  else if v = 0x00#8 then .ok .padByte
  else .error (.unknownByte v)

/-- The decoder of both spaces. -/
def decode : Encoded → Except DecodeError Instr
  | .request op o => decodeRequest op o
  | .payloadByte v => decodeByte v

/-! ### The encoder -/

/-- The encoding of an instruction: selector and operand (R57, R58), or code-book byte (R50, R51). -/
def encode : Instr → Encoded
  | .init n b d v => .request 0b000#3 (.config ⟨n, b.num, b.den, d, v⟩)
  | .encodeLed t => .request 0b001#3 (.triple t.toRaw)
  | .encodeFrame f => .request 0b010#3 (.frame (f.map Rgb.toRaw))
  | .transfer p => .request 0b011#3 (.payload (p.map fun v => (v.toNat : Int)))
  | .showFrame f => .request 0b100#3 (.frame (f.map Rgb.toRaw))
  | .shutdown => .request 0b101#3 .none
  | .symZero => .payloadByte 0x04#8
  | .symOne => .payloadByte 0x06#8
  | .padByte => .payloadByte 0x00#8

/-! ### Words of the opcode table -/

/-- The operand of all zeros for a selector: no LEDs at brightness 0 on device 0, the triple (0,0,0),
no triples, the payload of 64 zero bytes, nothing. -/
def zeroOperand (op : Selector) : Operand :=
  if op = 0b000#3 then .config ⟨0, 0, 1, some 0, ⟨1, 1⟩⟩
  else if op = 0b001#3 then .triple ⟨0, 0, 0⟩
  else if op = 0b010#3 then .frame []
  else if op = 0b011#3 then .payload (List.replicate 64 0)
  else if op = 0b100#3 then .frame []
  else .none

/-- A table word in one of the two spaces. The table's two formats share words (0x00 is INIT's selector
and PAD_BYTE, 0x04 is SHOW's and SYM_ZERO); a bare word is read at the request port if its bits 2..0
are a selector that names an operation, else as a payload byte if a whole byte is given
(log entry 3). -/
def encodedOfTableWord (nbits w : Nat) : Encoded :=
  let op := BitVec.ofNat 3 w
  if op.toNat ≤ 5 ∨ nbits < 8 then .request op (zeroOperand op)
  else .payloadByte (BitVec.ofNat 8 w)

/-- The instruction the decoder reads from a word of the opcode table. -/
def decodeTableWord (nbits w : Nat) : Option Instr :=
  match decode (encodedOfTableWord nbits w) with
  | .ok i => some i
  | .error _ => none

end Sys2Proof
end

