-- ==== Sys2Proof/Machine/State.lean ====
section
/-! DEFINITION. The machine's state as plain data, its reset value, and the reasons a step can stop.
Every piece of state spec/10_state.md gives the block and the LED chain behind it, the requesters and
the bus as inputs, and three fields of the model's own (`parked`, `line`, `draws`). -/

namespace Sys2Proof.Machine

/-- Parameters that differ between two instances and that no step writes (spec/00_scope.md section 4). -/
structure Platform where
  /-- WIRE_MODE (R34) -/
  wireMode : WireMode
  /-- RESET_UNITS (R40): the least low run that makes the chain latch -/
  resetUnits : Nat
  /-- CHAIN_LEN (R43): LEDs physically on the strip -/
  chainLen : Nat
  /-- the devices for which the platform's `device_ok` is false (R81, U10) -/
  badDevices : List DeviceName
deriving DecidableEq, Repr

/-- The control registers CFG (R16). They have a value only after a successful INIT (R27). -/
structure CfgRegs where
  ledCount : Nat
  brightness : Ratio
  busDevice : DeviceName
  busSpeed : Ratio
deriving DecidableEq, Repr

/-- A Status as delivered on RES (R19, R97). -/
inductive Status where
  | ok
  /-- `error(StartupError, device)`; the delivered value is the device path, which may be missing -/
  | startupError (device : Option DeviceName)
  /-- `error(TransferError, cause)`; the cause is opaque -/
  | transferError (cause : Nat)
deriving DecidableEq, Repr

/-- What a response carries on RES (R57). -/
inductive Result where
  | fragment (f : Fragment)
  | payload (p : Payload)
  | status (st : Status)
deriving DecidableEq, Repr

/-- The result port: to whom, and what (R15, R57). -/
structure Response where
  requester : Nat
  result : Result
deriving DecidableEq, Repr

/-- A request of a requester's program: selector and operand (R57, R58). -/
structure Request where
  op : Selector
  opnd : Operand
deriving DecidableEq, Repr

/-- The request port: the requester's identity, the selector, the operand port OPND (R57). -/
structure Port where
  requester : Nat
  op : Selector
  opnd : Operand
deriving DecidableEq, Repr

/-- The end mark of a WIRE record (R21). -/
inductive Mark where
  | running
  | complete
  | failed
deriving DecidableEq, Repr

/-- A transaction record of WIRE (R21). -/
structure Record where
  requester : Nat
  bytes : List Byte
  mark : Mark
deriving DecidableEq, Repr

/-- A bus operation being performed: who asked, the payload as it was at the request (R45), whether it
is the SHUTDOWN, which clears `opened` at its end (R92), and its record's place in WIRE. -/
structure Job where
  requester : Nat
  payload : Payload
  closing : Bool
  index : Nat
deriving DecidableEq, Repr

/-- A bus operation that overlaps the framer's and waits for its next turn on the line (R95). -/
structure Parked where
  job : Job
  pos : Nat
deriving DecidableEq, Repr

/-- The downstream LED chain (R24, R43). -/
structure Chain where
  /-- data bits taken since the last latch; `none` is the spec's `unknown` -/
  k : Option Nat
  shadow : List Bool
  display : List Grb
deriving DecidableEq, Repr

/-- What the bus does with the present byte (R88): it goes out; the transaction fails before it; it
goes out and then the transaction fails. The last covers the failed prefix of length `L`
(log entry 16). -/
inductive BusEvent where
  | ok
  | failBefore (cause : Nat)
  | failAfter (cause : Nat)
deriving DecidableEq, Repr

/-- Who moves next (R42, R109): requester `n` places its next request on the port, or the framer sends
the next byte of its transaction, after an overlapping one at place `pick` took the line. -/
inductive Turn where
  | issue (n : Nat)
  | bus (pick : Nat) (ev : BusEvent)
deriving DecidableEq, Repr

/-- The machine's state. -/
structure State where
  /-- parameters of the platform; no step writes them -/
  platform : Platform
  /-- CFG (R16); `none` is the spec's "no value" -/
  cfg : Option CfgRegs
  /-- R22 -/
  opened : Bool
  /-- R17 -/
  busy : Bool
  /-- R18: index of the next payload byte -/
  pos : Nat
  /-- R18: bit index within the byte being sent, which counts its bit periods from 0 (log entry 31) -/
  q : Nat
  /-- R20: level of the data line -/
  sdo : Bool
  /-- R23: sticky overlap mark -/
  busConflict : Bool
  /-- R19: result of the transaction that ended in the last step, delivered once -/
  status : Option Status
  /-- the request port with OPND (R15, R57) -/
  port : Option Port
  /-- the result port RES (R15, R57) -/
  res : Option Response
  /-- the bus operation the framer performs -/
  job : Option Job
  /-- the MODEL's own: overlapping bus operations (log entry 15) -/
  parked : List Parked
  /-- WIRE (R21) -/
  wire : List Record
  /-- the MODEL's own: every level SDO took, one per bit period (R85, log entry 1) -/
  line : List Bool
  /-- the LED chain (R24) -/
  chain : Chain
  /-- each requester's remaining requests (R109) -/
  programs : List (List Request)
  /-- who moves next (log entry 2) -/
  turns : List Turn
  /-- what the bus answers to the present byte (R88) -/
  bus : BusEvent
  /-- the MODEL's own: number of the next unspecified value (log entry 9) -/
  draws : Nat
deriving DecidableEq, Repr

/-- Reasons a step faults. The block's own faults (R97) are results, not stops: they are next states. -/
inductive Fault where
  /-- Raised by the code-book bytes SYM_ZERO, SYM_ONE, PAD_BYTE, and by the step, when no transaction
  runs: `emit` appends to the record that is `running` (R21) and there is none. Safe: the machine
  stops, and no run reaches it (log entry 22). -/
  | noTransaction
deriving DecidableEq, Repr

/-- Reasons a request is refused: the spec gives it no meaning, "no step and no result" (R101). All are
safe: the machine stops where the real one goes on unobserved (log entry 10). -/
inductive Refusal where
  /-- raised by a dispatch arm whose instruction has no meaning yet; safe -/
  | notModelled (mnemonic : String)
  /-- raised by the step when the request port or the payload byte decodes to nothing (R59, R15, R101,
  R83, R54); safe -/
  | badRequest (e : DecodeError)
  /-- raised by INIT after a successful INIT (R81, R9, D23); safe -/
  | initTwice
  /-- raised by INIT on a brightness outside [0, 1] (R81) or a bus speed that is no positive rate (R16, log
  entry 24); safe -/
  | illegalParameter
  /-- raised by every operation but INIT while `opened = 0` or CFG has no value (R94); safe -/
  | notOpened
  /-- raised by ENCODE_FRAME and SHOW on a Frame whose length is not LED_COUNT (R35); safe -/
  | frameLength
  /-- raised by TRANSFER on a payload that is not well-formed (R83); safe -/
  | malformedPayload
deriving DecidableEq, Repr

/-- What the machine does next: run an instruction in a state, move without one (a requester places a
request, or nothing happens), or stop. -/
inductive Fetched where
  | run (i : Instr) (s : State)
  | quiet (s : State)
  | refused (r : Refusal)
  | fault (f : Fault)
deriving DecidableEq, Repr

/-- A chain about which nothing is known (R27, R43): `k` unknown, every bit and color a free value. -/
def Chain.unspecified (draw len : Nat) : Chain where
  k := none
  shadow := (List.range (24 * len)).map (Config.freeBit draw)
  display := (List.range len).map fun i =>
    ⟨Config.freeChan draw i 0, Config.freeChan draw i 1, Config.freeChan draw i 2⟩

/-- The parameters at their defaults: the spec names one only for WIRE_MODE (D2); the others are this
model's (log entries 7 and 8). -/
def Platform.default : Platform where
  wireMode := Config.defaultWireMode
  resetUnits := 64
  chainLen := 24
  badDevices := []

/-- The state after block reset on a platform (R27, R115 to R117), with no request waiting. -/
def State.powerOn (p : Platform) : State where
  platform := p
  cfg := none
  opened := false
  busy := false
  pos := 0
  q := 0
  sdo := false
  busConflict := false
  status := none
  port := none
  res := none
  job := none
  parked := []
  wire := []
  line := []
  chain := Chain.unspecified 0 p.chainLen
  programs := []
  turns := []
  bus := .ok
  draws := 1

/-- The machine right after block reset (R27). -/
def State.reset : State := State.powerOn Platform.default

end Sys2Proof.Machine
end

