-- ==== Sys2Proof/Machine/Operands.lean ====
section
/-! DEFINITION. Operand forms and index computations: the payload map (R29, R18), the well-formedness of
a payload operand (R83), and the pseudo-operations SOLID, BAR and CLEAR (R61 to R63). -/

namespace Sys2Proof.Machine

/-- `L = 24 × LED_COUNT + 64` (R18, R35). -/
def payloadLength (ledCount : Nat) : Nat := Config.bytesPerLed * ledCount + Config.resetPadding

/-- `p(i, j, k) = 24 × i + 8 × j + (7 - k)`: where data bit `k` of channel slot `j` of LED `i` stands
(R29). -/
def payloadIndex (i j k : Nat) : Nat := 24 * i + 8 * j + (7 - k)

/-- What the payload byte at a position carries (R18). -/
def roleAt (ledCount pos : Nat) : ByteRole :=
  if pos < 24 * ledCount then .data (pos / 24) (pos % 24 / 8) (7 - pos % 8)
  else .pad (pos - 24 * ledCount)

/-- The byte stands for a data bit (R50). -/
def isSymbol (v : Byte) : Bool := v == Config.symZero || v == Config.symOne

/-- `WellFormed(P)`: the configured length, symbol bytes in the data part, zero bytes from there on
(R83). -/
def payloadWellFormed (ledCount : Nat) (p : Payload) : Bool :=
  p.length == payloadLength ledCount
    && (p.take (24 * ledCount)).all isSymbol
    && (p.drop (24 * ledCount)).all (· == Config.padByte)

/-- The color "off" (R62) and black (R63): `(0,0,0)`. -/
def Rgb.black : Rgb := ⟨0, 0, 0⟩

/-- The all-black Frame (R63, R92). -/
def blackFrame (ledCount : Nat) : Frame := List.replicate ledCount Rgb.black

/-- Pseudo-operation `SOLID c` (R61). -/
def solid (ledCount : Nat) (c : Rgb) : Instr := .showFrame (List.replicate ledCount c)

/-- Pseudo-operation `BAR n c`, for `n ≤ LED_COUNT` (R62). -/
def bar (ledCount n : Nat) (c : Rgb) : Instr :=
  .showFrame (List.replicate n c ++ List.replicate (ledCount - n) Rgb.black)

/-- Pseudo-operation `CLEAR` (R63). -/
def clear (ledCount : Nat) : Instr := solid ledCount Rgb.black

/-! ### Requests written down (R60) -/

/-- A triple in decimal: `(r,g,b)` (R60). -/
def rgbText (t : Rgb) : String :=
  "(" ++ toString t.r.toNat ++ "," ++ toString t.g.toNat ++ "," ++ toString t.b.toNat ++ ")"

/-- A Frame: a bracketed list of triples (R60). -/
def frameText (f : Frame) : String := "[" ++ String.intercalate "," (f.map rgbText) ++ "]"

/-- One hexadecimal digit. -/
def hexDigit (n : Nat) : Char := if n < 10 then Char.ofNat (48 + n) else Char.ofNat (55 + n)

/-- A byte as two hexadecimal digits (R60). -/
def byteText (v : Byte) : String := String.ofList [hexDigit (v.toNat / 16), hexDigit (v.toNat % 16)]

/-- A request in the spec's notation: the operation's name followed by its operand (R60). The code-book
bytes, which are no requests, are written as a payload's bytes are. -/
def instrText : Instr → String
  | .init n b _ _ =>
    "INIT led_count=" ++ toString n ++ " brightness=" ++ toString b.num ++ "/" ++ toString b.den
  | .encodeLed t => "ENCODE_LED " ++ rgbText t
  | .encodeFrame f => "ENCODE_FRAME " ++ frameText f
  | .transfer p => "TRANSFER " ++ String.intercalate " " (p.map byteText)
  | .showFrame f => "SHOW " ++ frameText f
  | .shutdown => "SHUTDOWN"
  | .symZero => byteText Config.symZero
  | .symOne => byteText Config.symOne
  | .padByte => byteText Config.padByte

/-- The same with the requester's name and a colon before it (R60). -/
def requestText (requester : String) (i : Instr) : String := requester ++ ": " ++ instrText i

end Sys2Proof.Machine
end

