-- ==== Sys2Proof/Machine/Flags.lean ====
section
/-! DEFINITION. The one-bit and status state. The block has no condition codes (R19); what plays their
part is `opened` (R22), `busy` (R17) and the numbers of the two faults (R97). -/

namespace Sys2Proof.Machine

/-- The configuration an operation other than INIT reads; none before a successful INIT and after
SHUTDOWN, where every such operation is refused (R22, R94). -/
def State.operative (s : State) : Option CfgRegs := if s.opened then s.cfg else none

/-- An INIT has already succeeded since block reset, so another is refused (R81, R9, D23). -/
def State.initDone (s : State) : Bool := s.opened || s.cfg.isSome

/-- The platform's `device_ok` for the device an INIT names; a missing one is never usable
(R81, R100). -/
def State.deviceOk (s : State) (device : Option DeviceName) : Option DeviceName :=
  match device with
  | none => none
  | some d => if s.platform.badDevices.contains d then none else some d

/-- Fault numbers of R97; 0 stands for `ok`. -/
def Status.code : Status → Nat
  | .ok => 0
  | .startupError _ => 1
  | .transferError _ => 2

/-- Requester `n` is blocked: a bus operation of its own has not ended (R41, R86). -/
def State.blocked (s : State) (n : Nat) : Bool :=
  (match s.job with
    | some j => j.requester == n
    | none => false)
  || s.parked.any fun p => p.job.requester == n

/-- The identity of the requester on the request port (R57). -/
def State.caller (s : State) : Nat :=
  match s.port with
  | some p => p.requester
  | none => 0

end Sys2Proof.Machine
end

