-- ==== Sys2Proof/Machine/Line.lean ====
section
/-! DEFINITION. The data line: the bit periods of one byte in each wire mode (R34, R55, R85), driving
SDO, and how a line is read by pulse width (R43, bit level). -/

namespace Sys2Proof.Machine

/-- Bit periods per byte (R34). -/
def periodsPerByte : WireMode → Nat
  | .w8Msb => 8
  | .w8Lsb => 8
  | .w3Msb => 3

/-- The levels of SDO for one byte, first period first (R34). -/
def wirePattern : WireMode → Byte → List Bool
  | .w8Msb, v => (List.range 8).map fun n => v.getLsbD (7 - n)
  | .w8Lsb, v => (List.range 8).map fun n => v.getLsbD n
  | .w3Msb, v => (List.range 3).map fun n => v.getLsbD (2 - n)

/-- The levels of SDO for a sequence of bytes: no gap and no extra period between them (R85). -/
def lineOf (m : WireMode) (bytes : List Byte) : List Bool := bytes.flatMap (wirePattern m)

/-- Drive SDO for one bit period (R85): the level, the bit index, and the record of the line. R18 leaves to
WIRE_MODE what the bit index counts, and R34 does not name it: here it counts the periods up from 0 in every
mode, and is not the number of the bit of the byte, which falls from 7 in W8_MSB (log entry 31). -/
def driveBit (s : State) (level : Bool) : State :=
  { s with sdo := level, q := s.q + 1, line := s.line ++ [level] }

/-- Drive SDO for all the periods of a byte (R85); the bit index is then that of the next
byte's first period, 0 in every mode (log entry 31). -/
def driveByte (v : Byte) (s : State) : State :=
  { (wirePattern s.platform.wireMode v).foldl driveBit { s with q := 0 } with q := 0 }

/-- The lengths of the maximal high runs of a line; `n` is the length of the run so far. -/
def highRunsFrom (n : Nat) : List Bool → List Nat
  | [] => if n = 0 then [] else [n]
  | true :: l => highRunsFrom (n + 1) l
  | false :: l => if n = 0 then highRunsFrom 0 l else n :: highRunsFrom 0 l

/-- The data bit of a high run: two periods a 1, one period a 0, any other length no meaning (R43). -/
def pulseBit : Nat → Option Bool
  | 1 => some false
  | 2 => some true
  | _ => none

/-- The data bits a line carries, read by pulse width (R43). -/
def readLine (l : List Bool) : Option (List Bool) := (highRunsFrom 0 l).mapM pulseBit

/-- The longest run of low periods of a line; `n` is the length of the run so far. -/
def longestLowFrom (n : Nat) : List Bool → Nat
  | [] => n
  | true :: l => max n (longestLowFrom 0 l)
  | false :: l => longestLowFrom (n + 1) l

/-- The premise on RESET_UNITS under which the reset block latches the chain and no gap between two
data pulses does (R40, `ResetSuffices` of R129). -/
def resetSuffices (p : Platform) : Bool :=
  match p.wireMode with
  | .w8Msb => 7 < p.resetUnits && p.resetUnits ≤ 512
  | .w8Lsb => 7 < p.resetUnits && p.resetUnits ≤ 512
  | .w3Msb => 2 < p.resetUnits && p.resetUnits ≤ 192

end Sys2Proof.Machine
end

