-- ==== Sys2Proof/Machine/Chain.lean ====
section
/-! DEFINITION. The downstream LED chain, the reference model of R43: taking a byte, latching, and the
same chain reading the data line bit by bit. -/

namespace Sys2Proof.Machine

/-- The unsigned integer of a list of bits, most significant first, as a channel value. -/
def chanOfBits (l : List Bool) : Chan := BitVec.ofNat 8 (l.foldl (fun a b => 2 * a + b.toNat) 0)

/-- The color the chain's `shadow` holds for LED `i`: green, red, blue from bit positions `24 × i`,
`24 × i + 8`, `24 × i + 16` (R43). -/
def shadowColor (shadow : List Bool) (i : Nat) : Grb :=
  let bits := shadow.drop (24 * i)
  ⟨chanOfBits (bits.take 8), chanOfBits ((bits.drop 8).take 8), chanOfBits ((bits.drop 16).take 8)⟩

/-- Taking data bit `d` on a chain of `len` LEDs (R43; dropping bits past the end is the spec's
passage from general knowledge, G1). -/
def Chain.takeBit (len : Nat) (d : Bool) (c : Chain) : Chain :=
  match c.k with
  | none => c
  | some k =>
    { c with shadow := if k < 24 * len then c.shadow.set k d else c.shadow, k := some (k + 1) }

/-- Consuming a byte: a symbol gives its data bit, a pad byte none (R43). -/
def Chain.takeByte (len : Nat) (v : Byte) (c : Chain) : Chain :=
  if v = Config.symOne then c.takeBit len true
  else if v = Config.symZero then c.takeBit len false
  else c

/-- The latch at the end of a complete transaction (R43): every LED whose 24 bits arrived takes its
color, the others keep theirs (G2); with `k` unknown the whole of `display` becomes unspecified. In
both cases `k` is then 0. -/
def Chain.latch (len draw : Nat) (c : Chain) : Chain :=
  match c.k with
  | some k =>
    { c with
      k := some 0
      display := c.display.mapIdx fun i old => if 24 * i + 24 ≤ k then shadowColor c.shadow i else old }
  | none => { c with k := some 0, display := (Chain.unspecified draw len).display }

/-! ### The same chain reading the data line (R43, bit level) -/

/-- The chain with what it has seen of the line: the current high run, the current low run. -/
structure BitChain where
  high : Nat
  low : Nat
  chain : Chain
deriving DecidableEq, Repr

/-- One bit period on the line (R43): the low period after a high run of one or two takes that run's data
bit; a high run of another length has no meaning and leaves nothing known; the low run that reaches
RESET_UNITS latches. -/
def BitChain.period (p : Platform) (draw : Nat) (c : BitChain) (level : Bool) : BitChain :=
  if level then { c with high := c.high + 1, low := 0 }
  else
    let taken :=
      if c.high = 0 then c.chain
      else match pulseBit c.high with
        | some d => c.chain.takeBit p.chainLen d
        | none => Chain.unspecified draw p.chainLen
    { high := 0
      low := c.low + 1
      chain := if c.low + 1 = p.resetUnits then taken.latch p.chainLen draw else taken }

/-- The chain after a stretch of line. -/
def BitChain.read (p : Platform) (draw : Nat) (l : List Bool) (c : BitChain) : BitChain :=
  l.foldl (BitChain.period p draw) c

end Sys2Proof.Machine
end

