-- ==== Sys2Proof/Machine/Ops.lean ====
section
/-! DEFINITION. The shared operations of the machine: the ports, fault entry, starting a transaction,
emitting a byte, ending a transaction, and the moves of the environment (R82, R88, R95, R105, R109). -/

namespace Sys2Proof.Machine

/-! ### Ports -/

/-- A result is delivered once: what the last step delivered is gone when the next begins (R15, R19). -/
def State.tick (s : State) : State := { s with res := none, status := none }

/-- The answer of an operation that ends in the step that ran it: result on RES, the request port empty
again (R15, R57). -/
def State.respond (s : State) (r : Result) : State :=
  { s with port := none, res := some ⟨s.caller, r⟩ }

/-! ### WIRE (R21) -/

/-- Append a byte to the record at a place. -/
def appendByte (i : Nat) (v : Byte) (w : List Record) : List Record :=
  w.modify i fun r => { r with bytes := r.bytes ++ [v] }

/-- Set the end mark of the record at a place. -/
def setMark (i : Nat) (m : Mark) (w : List Record) : List Record :=
  w.modify i fun r => { r with mark := m }

/-! ### The chain as the block drives it -/

/-- The chain becomes unspecified (R43, R88, R95). -/
def State.disturbChain (s : State) : State :=
  { s with chain := Chain.unspecified s.draws s.platform.chainLen, draws := s.draws + 1 }

/-- The chain consumes a byte; after an overlap nothing is known of it (R42, R43). -/
def State.feedChain (v : Byte) (s : State) : State :=
  if s.busConflict then s.disturbChain
  else { s with chain := s.chain.takeByte s.platform.chainLen v }

/-- The chain latches; after an overlap nothing is known of it (R42, R43). -/
def State.latchChain (s : State) : State :=
  if s.busConflict then s.disturbChain
  else { s with chain := s.chain.latch s.platform.chainLen s.draws, draws := s.draws + 1 }

/-! ### The framer -/

/-- The framer leaves its operation: idle (`busy`, `pos`, `SDO` to 0, R82, R105), unless an overlapping
operation is waiting for the line, which then goes on where it stood (log entry 15). -/
def State.releaseFramer (s : State) : State :=
  match s.parked with
  | [] => { s with busy := false, pos := 0, q := 0, sdo := false, job := none }
  | p :: ps => { s with pos := p.pos, q := 0, sdo := false, job := some p.job, parked := ps }

/-- FAULT ENTRY (R105), the one operation behind both faults: stop the operation, return the framer to
idle, deliver `error(fault, info)` on RES to the requester. Nothing is saved, no mode is switched and
there is no handler; there is no return from a fault either (R107). -/
def State.raiseFault (requester : Nat) (st : Status) (s : State) : State :=
  State.releaseFramer { s with port := none, res := some ⟨requester, .status st⟩ }

/-- Accept a bus operation on an idle bus (R82): `busy ← 1`, `pos ← 0`, a running record in WIRE. -/
def State.beginTransaction (p : Payload) (closing : Bool) (s : State) : State :=
  { s with
    busy := true
    pos := 0
    q := 0
    job := some ⟨s.caller, p, closing, s.wire.length⟩
    wire := s.wire ++ [⟨s.caller, [], .running⟩]
    port := none }

/-- A bus operation requested while `busy = 1` (R95): the sticky mark; the chain is unspecified from
here on (R42); the operation waits for its turns on the line, so that the bytes of the overlapping
payloads interleave in any order (the second alternative of R95, log entry 15). -/
def State.overlapTransaction (p : Payload) (closing : Bool) (s : State) : State :=
  State.disturbChain
    { s with
      busConflict := true
      parked := s.parked ++ [⟨⟨s.caller, p, closing, s.wire.length⟩, 0⟩]
      wire := s.wire ++ [⟨s.caller, [], .running⟩]
      port := none }

/-- The overlap check, then the transaction (R104, R82). -/
def State.startTransaction (p : Payload) (closing : Bool) (s : State) : State :=
  if s.busy then s.overlapTransaction p closing else s.beginTransaction p closing

/-- `emit(v)` and `pos ← pos + 1` (R82, R85): the byte on the line, in the running record, and to the
chain. -/
def State.emit (v : Byte) (j : Job) (s : State) : State :=
  let s := driveByte v s
  State.feedChain v { s with pos := s.pos + 1, wire := appendByte j.index v s.wire, bus := .ok }

/-- The end of an operation on the bus, complete or failed: its record is marked, SHUTDOWN's clears
`opened` (R92), and `status` is the outcome (R19). -/
def State.markEnd (j : Job) (m : Mark) (st : Status) (s : State) : State :=
  { s with
    wire := setMark j.index m s.wire
    opened := s.opened && !j.closing
    status := some st
    bus := .ok }

/-- How a complete transaction ends for its requester: `ok`, but after an overlap R95 gives it no
meaning and the status is a free value (log entry 15). -/
def State.completionStatus (s : State) : Status :=
  if s.busConflict then
    match Config.overlapResult s.draws with
    | none => .ok
    | some c => .transferError c
  else .ok

/-- Completion (R87): the record is complete, the chain latches, the framer is idle, the requester gets
its status. -/
def State.completeTransaction (j : Job) (s : State) : State :=
  let st := s.completionStatus
  State.releaseFramer
    { (s.markEnd j .complete st).latchChain with
      port := none, res := some ⟨j.requester, .status st⟩ }

/-- Failure (R88): the record is failed, the chain is unspecified, then fault entry. -/
def State.failTransaction (j : Job) (cause : Nat) (s : State) : State :=
  ((s.markEnd j .failed (.transferError cause)).disturbChain).raiseFault j.requester
    (.transferError cause)

/-- After a byte went out: complete when it was the last (R18, R87). -/
def State.afterByte (j : Job) (s : State) : State :=
  if j.payload.length ≤ s.pos then s.completeTransaction j else s

/-- One step of the framer's loop (R82, R84, R88): the byte goes out, or the bus fails before or after
it. -/
def State.sendByte (v : Byte) (s : State) : Host.Outcome State Fault Refusal :=
  match s.busy, s.job with
  | true, some j =>
    match s.bus with
    | .ok => .next ((s.emit v j).afterByte j)
    | .failBefore c => .next (s.failTransaction j c)
    | .failAfter c => .next ((s.emit v j).failTransaction j c)
  | _, _ => .fault .noTransaction

/-! ### The environment's moves -/

/-- Another overlapping operation takes the line: the one at place `pick`, if there is one (R95). -/
def State.selectJob (pick : Nat) (s : State) : State :=
  match s.job, s.parked[pick]? with
  | some j, some p =>
    { s with job := some p.job, pos := p.pos, parked := s.parked.set pick ⟨j, s.pos⟩ }
  | _, _ => s

/-- Requester `n` places its next request on the request port, if it has one and is not blocked
(R41, R109). -/
def State.issue (n : Nat) (s : State) : State :=
  match s.programs[n]? with
  | some (r :: rest) =>
    if s.blocked n then s
    else { s with port := some ⟨n, r.op, r.opnd⟩, programs := s.programs.set n rest }
  | _ => s

/-- Requester `n` has a request to place and is not blocked. -/
def State.ready (s : State) (n : Nat) : Bool :=
  match s.programs[n]? with
  | some (_ :: _) => !s.blocked n
  | _ => false

/-- The first requester that can place a request. -/
def State.firstReady (s : State) : Option Nat := (List.range s.programs.length).find? s.ready

end Sys2Proof.Machine
end

