-- ==== Sys2Proof/Machine/Encoder.lean ====
section
/-! DEFINITION. The Protocol Encoder family (spec/40_encoder.md): SCALE, REORDER, SYMBOL, ENCODE_BYTE,
PAD, the operations ENCODE_LED and ENCODE_FRAME, and the DECODE functions of the round-trip property.
The functions take the scaling as an argument `sc` (the spec's `scale_fn`, R80); the machine runs them
with `scale`. -/

namespace Sys2Proof.Machine

/-- A scaling of channels by the brightness, the spec's configuration function `scale_fn` (R80). -/
abbrev ScaleFn := Chan → Ratio → Chan

/-- SCALE: `(c × num) div den`, the exact product truncated (R64, D3). -/
def scale : ScaleFn := fun c b => BitVec.ofNat 8 (c.toNat * b.num / b.den)

/-- SCALE on each channel of a triple. -/
def scaleRgb (sc : ScaleFn) (b : Ratio) (t : Rgb) : Rgb := ⟨sc t.r b, sc t.g b, sc t.b b⟩

/-- REORDER: red, green, blue to green, red, blue (R65). -/
def reorder (t : Rgb) : Grb := ⟨t.g, t.r, t.b⟩

/-- The color an LED shows for a triple: scaled and reordered (R44). -/
def shownColor (sc : ScaleFn) (b : Ratio) (t : Rgb) : Grb := reorder (scaleRgb sc b t)

/-- SYMBOL: one data bit to one symbol byte (R66). -/
def symbol (d : Bool) : Byte := if d then Config.symOne else Config.symZero

/-- The channel in a slot: 0 = green, 1 = red, 2 = blue (R18, R29). -/
def grbSlot (c : Grb) : Nat → Chan
  | 0 => c.g
  | 1 => c.r
  | _ => c.b

/-- The bits of a channel value, bit 7 first (R32). -/
def chanBits (v : Chan) : List Bool := (List.range 8).map fun n => v.getLsbD (7 - n)

/-- ENCODE_BYTE: element `n` is `SYMBOL(v[7 - n])` (R67). -/
def encodeByte (v : Chan) : List Byte := (chanBits v).map symbol

/-- A color in transmission order as its 24 symbol bytes (R52). -/
def fragmentOf (c : Grb) : Fragment := encodeByte c.g ++ encodeByte c.r ++ encodeByte c.b

/-- ENCODE_LED (R68). -/
def encodeLed (sc : ScaleFn) (b : Ratio) (t : Rgb) : Fragment := fragmentOf (shownColor sc b t)

/-- PAD: the reset block (R69). -/
def pad : List Byte := List.replicate Config.resetPadding Config.padByte

/-- ENCODE_FRAME: the fragments in Frame order, then the reset block once (R70). -/
def encodeFrame (sc : ScaleFn) (b : Ratio) (f : Frame) : Payload := f.flatMap (encodeLed sc b) ++ pad

/-- DECODE_SYMBOL (R72). -/
def decodeSymbol (v : Byte) : Option Bool :=
  if v = Config.symOne then some true else if v = Config.symZero then some false else none

/-- DECODE_FRAGMENT (R73). -/
def decodeFragment (f : List Byte) : Option Grb :=
  if f.length = 24 then (f.mapM decodeSymbol).map fun bits => shadowColor bits 0 else none

/-- ENCODE_LED as an operation (R68): needs a configured block (R94); the Fragment is the result. -/
def execEncodeLed (t : Rgb) (s : State) : Host.Outcome State Fault Refusal :=
  match s.operative with
  | none => .refused .notOpened
  | some c => .next (s.respond (.fragment (encodeLed scale c.brightness t)))

/-- ENCODE_FRAME as an operation (R70): needs a configured block (R94) and a Frame of LED_COUNT triples
(R35); the payload is the result and nothing is emitted. -/
def execEncodeFrame (f : Frame) (s : State) : Host.Outcome State Fault Refusal :=
  match s.operative with
  | none => .refused .notOpened
  | some c =>
    if f.length = c.ledCount then .next (s.respond (.payload (encodeFrame scale c.brightness f)))
    else .refused .frameLength

end Sys2Proof.Machine
end

