-- ==== Sys2Proof/Machine/Transfer.lean ====
section
/-! DEFINITION. The Transfer Sink family (spec/41_transfer.md): INIT, TRANSFER, SHOW, SHUTDOWN. A bus
operation's instruction accepts it; the bytes then go out one a step (Machine/Framer.lean). -/

namespace Sys2Proof.Machine

/-- INIT (R81): refused after a successful one and outside the parameters' domains, which are those of R81
and, for the bus speed, the type the table of R16 gives it (log entry 24); `StartupError` on a device that
is missing or not usable; else CFG is loaded and the bus is open. -/
def execInit (ledCount : Nat) (brightness : Ratio) (device : Option DeviceName) (speed : Ratio)
    (s : State) : Host.Outcome State Fault Refusal :=
  if s.initDone then .refused .initTwice
  else if !(brightness.isBrightness && speed.isRate) then .refused .illegalParameter
  else
    match s.deviceOk device with
    | none => .next (s.raiseFault s.caller (.startupError device))
    | some d =>
      .next ({ s with
        cfg := some ⟨ledCount, brightness, d, speed⟩
        opened := true
        busy := false
        pos := 0
        sdo := false }.respond (.status .ok))

/-- TRANSFER (R82): refused unless the block is open (R94) and the payload well-formed (R83). -/
def execTransfer (p : Payload) (s : State) : Host.Outcome State Fault Refusal :=
  match s.operative with
  | none => .refused .notOpened
  | some c =>
    if payloadWellFormed c.ledCount p then .next (s.startTransaction p false)
    else .refused .malformedPayload

/-- SHOW (R90): `TRANSFER(ENCODE_FRAME(F))` as one request. -/
def execShow (f : Frame) (s : State) : Host.Outcome State Fault Refusal :=
  match s.operative with
  | none => .refused .notOpened
  | some c =>
    if f.length = c.ledCount then
      .next (s.startTransaction (encodeFrame scale c.brightness f) false)
    else .refused .frameLength

/-- SHUTDOWN (R92): SHOW of the all-black Frame, then `opened ← 0` when that transaction has ended. -/
def execShutdown (s : State) : Host.Outcome State Fault Refusal :=
  match s.operative with
  | none => .refused .notOpened
  | some c =>
    .next (s.startTransaction (encodeFrame scale c.brightness (blackFrame c.ledCount)) true)

end Sys2Proof.Machine
end

