-- ==== Sys2Proof/Machine/Framer.lean ====
section
/-! DEFINITION. The code book as the framer runs it (spec/30_encoding.md R50, R51; spec/41_transfer.md
R82, R84, R85): each byte of the payload being sent is one step of the framer. -/

namespace Sys2Proof.Machine

/-- SYM_ZERO: the framer sends the symbol byte 0x04 of a data bit 0 (R66). -/
def execSymZero (s : State) : Host.Outcome State Fault Refusal := s.sendByte Config.symZero

/-- SYM_ONE: the framer sends the symbol byte 0x06 of a data bit 1 (R66). -/
def execSymOne (s : State) : Host.Outcome State Fault Refusal := s.sendByte Config.symOne

/-- PAD_BYTE: the framer sends the byte 0x00 of the reset block (R51, R69). -/
def execPadByte (s : State) : Host.Outcome State Fault Refusal := s.sendByte Config.padByte

end Sys2Proof.Machine
end

