-- ==== Sys2Proof/Machine/Fetch.lean ====
section
/-! DEFINITION. What the machine does next: the request on the request port, or the byte of the payload
at `pos`, or a move of the environment (R12, R18, R93, R109). -/

namespace Sys2Proof.Machine

/-- The request on the port, decoded (R57). -/
def fetchRequest (p : Port) (s : State) : Fetched :=
  match decodeRequest p.op p.opnd with
  | .ok i => .run i s
  | .error e => .refused (.badRequest e)

/-- The payload byte at `pos`, decoded; a transaction whose bytes are all out is complete (R18, R82). -/
def fetchByte (s : State) : Fetched :=
  match s.job with
  | none => .fault .noTransaction
  | some j =>
    match j.payload[s.pos]? with
    | none => .quiet (s.completeTransaction j)
    | some v =>
      match decodeByte v with
      | .ok i => .run i s
      | .error e => .refused (.badRequest e)

/-- A turn of the schedule (R42, R88, R109): a requester's, or the framer's, with the bus's answer. -/
def fetchTurn (t : Turn) (s : State) : Fetched :=
  match t with
  | .issue n => .quiet (s.issue n)
  | .bus pick ev => if s.busy then fetchByte { s.selectJob pick with bus := ev } else .quiet s

/-- With no turn laid down the framer goes on without failure, else the first requester that can places
its next request, else the block waits (R27, log entry 2). -/
def fetchDefault (s : State) : Fetched :=
  if s.busy then fetchByte { s with bus := .ok }
  else
    match s.firstReady with
    | some n => .quiet (s.issue n)
    | none => .quiet s

/-- What the machine does next. -/
def fetch (s : State) : Fetched :=
  match s.port with
  | some p => fetchRequest p s.tick
  | none =>
    match s.turns with
    | t :: ts => fetchTurn t { s.tick with turns := ts }
    | [] => fetchDefault s.tick

end Sys2Proof.Machine
end

