-- ==== Sys2Proof/Machine/Dispatch.lean ====
section
/-! DEFINITION. One arm per instruction. -/

namespace Sys2Proof.Machine

def exec (i : Instr) (s : State) : Host.Outcome State Fault Refusal :=
  match i with
  | .init ledCount brightness device speed => Sys2Proof.Machine.execInit ledCount brightness device speed s
  | .encodeLed t => Sys2Proof.Machine.execEncodeLed t s
  | .encodeFrame f => Sys2Proof.Machine.execEncodeFrame f s
  | .transfer p => Sys2Proof.Machine.execTransfer p s
  | .showFrame f => Sys2Proof.Machine.execShow f s
  | .shutdown => Sys2Proof.Machine.execShutdown s
  | .symZero => Sys2Proof.Machine.execSymZero s
  | .symOne => Sys2Proof.Machine.execSymOne s
  | .padByte => Sys2Proof.Machine.execPadByte s

end Sys2Proof.Machine
end

