-- ==== Sys2Proof/Machine/Step.lean ====
section
/-! DEFINITION. One step of the machine, and how a word of the opcode table is placed where the next step
fetches. -/

namespace Sys2Proof.Machine

/-- What `fetch` found is run. -/
def runFetched : Fetched → Host.Outcome State Fault Refusal
  | .run i s => exec i s
  | .quiet s => .next s
  | .refused r => .refused r
  | .fault f => .fault f

/-- One step of the machine. -/
def step (s : State) : Host.Outcome State Fault Refusal := runFetched (fetch s)

/-- The payload that puts a byte at the framer's position: the byte as the first of one LED's symbols, or
as the first of the reset block. -/
def payloadWithByte (v : Byte) : Payload :=
  if v = Config.padByte then List.replicate 64 Config.padByte
  else v :: (List.replicate 23 Config.symZero ++ List.replicate 64 Config.padByte)

/-- The state whose next step runs the word (log entry 4): a request on the request port, or a running
transaction whose next byte it is. -/
def State.withFetchWord (s : State) (nbits w : Nat) : State :=
  match encodedOfTableWord nbits w with
  | .request op opnd => { s with port := some ⟨0, op, opnd⟩ }
  | .payloadByte v =>
    { s with
      port := none
      turns := []
      busy := true
      pos := 0
      job := some ⟨0, payloadWithByte v, false, s.wire.length⟩
      wire := s.wire ++ [⟨0, [], .running⟩] }

end Sys2Proof.Machine
end

