-- ==== Sys2Proof/Safety.lean ====
section
/-! DEFINITION. The terms claims are stated in: the named premises of R129, the end of a run (R130), and
the machine's invariant. -/

namespace Sys2Proof.Machine

/-! ### Premises (R129) -/

/-- `Inited`: INIT has succeeded, with this configuration, and SHUTDOWN has not ended (R22). -/
def Configured (s : State) (c : CfgRegs) : Prop := s.opened = true ∧ s.cfg = some c

/-- `NoOverlap` so far: the mark is clear and no bus operation waits behind another (R23, R129). -/
def NoOverlap (s : State) : Prop := s.busConflict = false ∧ s.parked = []

/-- The framer performs this bus operation (R17). -/
def Sending (s : State) (j : Job) : Prop := s.busy = true ∧ s.job = some j

/-- Only the framer's turns are laid down, if any, and the bus answers each of them without failure; when
they are used up the framer, while busy, goes on in the same way (log entry 2). -/
def FramerGoesOn (s : State) : Prop := ∀ t ∈ s.turns, ∃ pick, t = Turn.bus pick .ok

/-- Nothing stands on the request port and the framer goes on. -/
def Undisturbed (s : State) : Prop := s.port = none ∧ FramerGoesOn s

/-- The chain's stores have CHAIN_LEN places (R24). -/
def ChainFits (s : State) : Prop :=
  s.chain.shadow.length = 24 * s.platform.chainLen ∧ s.chain.display.length = s.platform.chainLen

/-- `ChainIdleAtStart` (R129): the chain's `k` is 0. -/
def ChainIdleAtStart (s : State) : Prop := s.chain.k = some 0

/-- `ChainMatches` (R129): CHAIN_LEN = LED_COUNT. -/
def ChainMatches (s : State) : Prop := ∀ c, s.cfg = some c → s.platform.chainLen = c.ledCount

/-- `ResetSuffices` (R129, R40). -/
def ResetSuffices (s : State) : Prop := resetSuffices s.platform = true

/-- `BusOk(t)` (R129) for the transaction whose record is number `t` of WIRE: it has met no bus failure.
Said of a state in which the transaction has ended, it is the premise for the whole transaction. -/
def BusOk (t : Nat) (s : State) : Prop := ∀ r, s.wire[t]? = some r → r.mark ≠ .failed

/-- The transaction whose record is number `t` of WIRE has ended (R21, R86). -/
def TransactionEnded (t : Nat) (s : State) : Prop := ∃ r, s.wire[t]? = some r ∧ r.mark ≠ .running

/-- The instruction's operands lie in the domains that depend on the configuration: `n` triples in a Frame
(R35, R124), a payload well-formed for `n` LEDs (R83). -/
def inDomainFor (n : Nat) : Instr → Bool
  | .init _ _ _ _ => true
  | .encodeLed _ => true
  | .encodeFrame f => f.length == n
  | .transfer p => payloadWellFormed n p
  | .showFrame f => f.length == n
  | .shutdown => true
  | .symZero => true
  | .symOne => true
  | .padByte => true

/-- The instruction is an INIT that would set LED_COUNT to another number than `n` on this platform. -/
def configuresOther (s : State) (n : Nat) : Instr → Bool
  | .init m _ d _ => (s.deviceOk d).isSome && m != n
  | _ => false

/-- The requests that are still to run: the one on the port, and those of the requesters' lists. -/
def pendingRequests (s : State) : List Request :=
  (match s.port with
    | some p => [⟨p.op, p.opnd⟩]
    | none => []) ++ s.programs.flatten

/-- `InRange` (R129): every operand is in its domain (R101, R124). Every request still to run decodes to a
well-formed instruction whose Frame or payload fits the LED_COUNT `n` in force: that of CFG, and of the
INIT that is to load it. -/
def InRange (s : State) : Prop :=
  ∃ n, (∀ c, s.cfg = some c → c.ledCount = n) ∧
    ∀ r ∈ pendingRequests s, ∃ i, decodeRequest r.op r.opnd = .ok i ∧ i.wellFormed = true ∧
      inDomainFor n i = true ∧ (s.cfg = none → configuresOther s n i = false)

/-- The operand port holds the kind of operand the operation takes (table of R57). -/
def operandFits (op : Selector) : Operand → Bool
  | .none => op == 0b101#3
  | .config _ => op == 0b000#3
  | .triple _ => op == 0b001#3
  | .rgb24 _ => op == 0b001#3
  | .frame _ => op == 0b010#3 || op == 0b100#3
  | .payload _ => op == 0b011#3

/-! ### The end of a run (R130) -/

/-- Every requester has issued all its requests and received all its responses, and `busy = 0`. Turns of
the schedule that are still laid down are no condition: R130 names none, and they then do nothing (log
entry 2). -/
def RunEnded (s : State) : Prop := s.busy = false ∧ s.port = none ∧ ∀ l ∈ s.programs, l = []

/-- A run that ended is good when in addition `bus_conflict = 0`; that no request was refused is that the
run reached this state at all. -/
def GoodEnd (s : State) : Prop := RunEnded s ∧ s.busConflict = false

/-! ### The invariant -/

/-- A payload in transit has the configured shape and bytes left to send (R18, R83). -/
def InTransit (s : State) (j : Job) (pos : Nat) : Prop :=
  (∃ c, s.cfg = some c ∧ payloadWellFormed c.ledCount j.payload = true) ∧ pos < j.payload.length

/-- The framer (R17, R18, R20): idle it holds nothing and the line is low; busy it has a payload with
bytes left; between bytes the line is low and the bit index 0; only an overlap makes an operation
wait. -/
structure FramerInv (s : State) : Prop where
  idle : s.busy = false → s.pos = 0 ∧ s.job = none ∧ s.parked = []
  working : s.busy = true → ∃ j, s.job = some j ∧ InTransit s j s.pos
  waiting : ∀ p ∈ s.parked, InTransit s p.job p.pos
  lineLow : s.sdo = false ∧ s.q = 0
  overlapMarked : s.parked ≠ [] → s.busConflict = true

/-- CFG (R16, R22): an open block has a configuration, and in every configuration the brightness is legal
and the bus speed a positive rate. -/
structure ConfigInv (s : State) : Prop where
  openedHasCfg : s.opened = true → s.cfg.isSome = true
  legal : ∀ c, s.cfg = some c → c.brightness.isBrightness = true ∧ c.busSpeed.isRate = true

/-- WIRE (R21, R36), as long as nothing overlapped: the framer's record is the last, holds exactly the
bytes sent so far and is running; every other record has ended. -/
structure WireInv (s : State) : Prop where
  current : s.busConflict = false → ∀ j, s.job = some j →
    j.index + 1 = s.wire.length ∧
      s.wire[j.index]? = some ⟨j.requester, j.payload.take s.pos, .running⟩
  ended : s.busConflict = false → ∀ i r, s.wire[i]? = some r →
    (∀ j, s.job = some j → i ≠ j.index) → r.mark ≠ .running

/-- The machine's invariant. -/
structure Inv (s : State) : Prop where
  framer : FramerInv s
  config : ConfigInv s
  wire : WireInv s
  chain : ChainFits s

end Sys2Proof.Machine
end

