-- ==== Sys2Proof/Certificates/Slice0/Obligations.lean ====
section
/-! DEFINITION. What the provers are asked to prove of the model: the encoder's functions, the result,
completion and frame of every instruction, the step, whole transactions, the data line, and what every
step keeps. Statements about "every state" hold in states no run reaches too. Three of the model's
conventions stand in many of them: `s.caller` is the requester of the request on the port (log entry 23 says
who it is when there is none); a request leaves the port when it is accepted or answered (log entry 17); and
what the spec refuses has no next state (log entry 10). -/

open Sys2Proof Sys2Proof.Machine

/-! ### The two encoding spaces -/

/-- R59, R58: exactly the selectors 110 and 111 name no operation, whatever stands on the operand port;
a request with one of them is refused, so there is no next state, nothing changes and nothing is
emitted. -/
def Obligations.UnknownSelectorsRefused : Prop :=
  (∀ op : Selector, (op = 0b110#3 ∨ op = 0b111#3) ↔
    ∀ o, decode (.request op o) = .error (.unknownSelector op)) ∧
  ∀ (s : State) (p : Port), s.port = some p → (p.op = 0b110#3 ∨ p.op = 0b111#3) →
    step s = .refused (.badRequest (.unknownSelector p.op))

/-- R58, R50, R51: words written out from the tables decode to their instructions. The operands of the
request words are this model's all-zero operands (log entry 3). -/
def Obligations.TableWordsDecode : Prop :=
  decodeTableWord 8 0b000 = some (.init 0 ⟨0, 1⟩ (some 0) ⟨1, 1⟩) ∧
  decodeTableWord 8 0b001 = some (.encodeLed ⟨0, 0, 0⟩) ∧
  decodeTableWord 8 0b010 = some (.encodeFrame []) ∧
  decodeTableWord 8 0b011 = some (.transfer (List.replicate 64 0)) ∧
  decodeTableWord 8 0b100 = some (.showFrame []) ∧
  decodeTableWord 8 0b101 = some .shutdown ∧
  decode (.payloadByte 0b00000100#8) = .ok .symZero ∧
  decode (.payloadByte 0b00000110#8) = .ok .symOne ∧
  decode (.payloadByte 0b00000000#8) = .ok .padByte

/-- R54: to the framer exactly the three bytes of the code book mean anything. -/
def Obligations.OnlyCodeBookBytesDecode : Prop :=
  ∀ v : Byte, (∃ i, decode (.payloadByte v) = .ok i) ↔ v = 0x04#8 ∨ v = 0x06#8 ∨ v = 0x00#8

/-- Decode and encode agree: every well-formed instruction is read back from its encoding, with every
operand at every value (R46 to R49, R54, R57, R58). -/
def Obligations.DecodeEncodeRoundTrip : Prop :=
  ∀ i : Instr, i.wellFormed = true → decode (encode i) = .ok i

/-- R47: the packed triple. -/
def Obligations.PackedTriple : Prop :=
  (∀ t : Rgb, t.toWord24.toNat = t.r.toNat * 2 ^ 16 + t.g.toNat * 2 ^ 8 + t.b.toNat) ∧
  (∀ t : Rgb, Rgb.ofWord24 t.toWord24 = t) ∧
  (∀ w : Word24, (Rgb.ofWord24 w).toWord24 = w) ∧
  ∀ t : Rgb, decode (.request 0b001#3 (.rgb24 t.toWord24)) = .ok (.encodeLed t)

/-- R101, R83, R81: an operand outside its domain is refused at the port, never clamped or wrapped: a triple
with a channel outside 0..255, alone or in a Frame; a payload with an element that is no byte (260 does not
become 0x04); a brightness outside [0, 1], a negative LED_COUNT or a bus speed that is no positive rate (the
type R16 gives it, log entry 24); and an operand port that holds another kind of operand than the operation
takes. That the operand's refusal is the one named, in every state (also
on a block that is not open, or open already for INIT), is the model's choice among refusals (log entry
26), and that a value of another kind is refused is its reading of R15 and R57 (log entry 30). -/
def Obligations.OutOfDomainOperandsRefused : Prop :=
  (∀ (s : State) (q : Nat) (t : RawRgb), s.port = some ⟨q, 0b001#3, .triple t⟩ →
    ¬ (0 ≤ t.r ∧ t.r ≤ 255 ∧ 0 ≤ t.g ∧ t.g ≤ 255 ∧ 0 ≤ t.b ∧ t.b ≤ 255) →
    step s = .refused (.badRequest .channelOutOfRange)) ∧
  (∀ (s : State) (q : Nat) (op : Selector) (f : List RawRgb) (t : RawRgb),
    s.port = some ⟨q, op, .frame f⟩ → (op = 0b010#3 ∨ op = 0b100#3) → t ∈ f →
    ¬ (0 ≤ t.r ∧ t.r ≤ 255 ∧ 0 ≤ t.g ∧ t.g ≤ 255 ∧ 0 ≤ t.b ∧ t.b ≤ 255) →
    step s = .refused (.badRequest .channelOutOfRange)) ∧
  (∀ (s : State) (q : Nat) (p : List Int) (x : Int), s.port = some ⟨q, 0b011#3, .payload p⟩ →
    x ∈ p → ¬ (0 ≤ x ∧ x ≤ 255) → step s = .refused (.badRequest .notAByte)) ∧
  (∀ (s : State) (q : Nat) (c : RawConfig), s.port = some ⟨q, 0b000#3, .config c⟩ →
    ¬ (0 ≤ c.ledCount ∧ 0 < c.den ∧ 0 ≤ c.num ∧ c.num ≤ c.den ∧ 0 < c.speed.num ∧ 0 < c.speed.den) →
    step s = .refused (.badRequest .illegalParameter)) ∧
  ∀ (s : State) (p : Port), s.port = some p → p.op.toNat ≤ 5 → operandFits p.op p.opnd = false →
    step s = .refused (.badRequest .operandMismatch)

/-! ### The encoder's functions -/

/-- R64, R74: SCALE is the floor of the exact rational product, the quotient `(c × num) div den`, and never
above the channel. -/
def Obligations.ScaleIsFloorOfProduct : Prop :=
  ∀ (c : Chan) (b : Ratio), b.isBrightness = true →
    ((scale c b).toNat : ℤ) = ⌊(c.toNat : ℚ) * ((b.num : ℚ) / (b.den : ℚ))⌋ ∧
    (scale c b).toNat = c.toNat * b.num / b.den ∧
    (scale c b).toNat ≤ c.toNat

/-- R75: the end points of SCALE, and the payloads at full and at zero brightness. -/
def Obligations.BrightnessEndPoints : Prop :=
  (∀ (c : Chan) (b : Ratio), b.isBrightness = true → b.num = b.den → scale c b = c) ∧
  (∀ (c : Chan) (b : Ratio), b.isBrightness = true → b.num = 0 → scale c b = 0) ∧
  (∀ (b : Ratio) (f : Frame), b.isBrightness = true → b.num = b.den →
    encodeFrame scale b f = f.flatMap (fun t => fragmentOf (reorder t)) ++ pad) ∧
  ∀ (b : Ratio) (f : Frame), b.isBrightness = true → b.num = 0 →
    encodeFrame scale b f = List.replicate (24 * f.length) 0x04#8 ++ pad

/-- R76: monotone in the brightness. -/
def Obligations.ScaleMonotoneInBrightness : Prop :=
  ∀ (c : Chan) (b₁ b₂ : Ratio), b₁.isBrightness = true → b₂.isBrightness = true →
    b₁.num * b₂.den < b₂.num * b₁.den → (scale c b₁).toNat ≤ (scale c b₂).toNat

/-- R77: monotone in the channel. -/
def Obligations.ScaleMonotoneInChannel : Prop :=
  ∀ (c₁ c₂ : Chan) (b : Ratio), b.isBrightness = true → c₁.toNat ≤ c₂.toNat →
    (scale c₁ b).toNat ≤ (scale c₂ b).toNat

/-- R72: a symbol byte decodes to its middle bit and nothing else is a symbol. -/
def Obligations.DecodeSymbolReadsSymbolsOnly : Prop :=
  (∀ d : Bool, decodeSymbol (symbol d) = some d) ∧
  (∀ (v : Byte) (d : Bool), decodeSymbol v = some d → v = symbol d ∧ d = v.getLsbD 1) ∧
  ∀ v : Byte, v ≠ 0x04#8 → v ≠ 0x06#8 → decodeSymbol v = none

/-- R73: the round trip of a fragment, for every scaling function (R80), and "none" for a fragment with a
byte that is no symbol. -/
def Obligations.FragmentRoundTrip : Prop :=
  (∀ (sc : ScaleFn) (b : Ratio) (t : Rgb),
    decodeFragment (encodeLed sc b t) = some ⟨sc t.g b, sc t.r b, sc t.b b⟩) ∧
  ∀ (f : List Byte) (v : Byte), v ∈ f → decodeSymbol v = none → decodeFragment f = none

/-- R79: ENCODE_BYTE is injective, and two Frames have one payload exactly when their scaled colors are
equal; for every scaling function. -/
def Obligations.PayloadDeterminesScaledColors : Prop :=
  (∀ v w : Chan, encodeByte v = encodeByte w → v = w) ∧
  ∀ (sc : ScaleFn) (b : Ratio) (f g : Frame),
    encodeFrame sc b f = encodeFrame sc b g ↔ f.map (shownColor sc b) = g.map (shownColor sc b)

/-- R29 to R32, R53, R70, R78: where every data bit of a Frame stands in its payload, the reset block after
them, and the length; for every scaling function. -/
def Obligations.PayloadCarriesFrame : Prop :=
  ∀ (sc : ScaleFn) (b : Ratio) (f : Frame),
    (encodeFrame sc b f).length = 24 * f.length + 64 ∧
    (∀ (i j k : Nat) (t : Rgb), f[i]? = some t → j ≤ 2 → k ≤ 7 →
      (encodeFrame sc b f)[payloadIndex i j k]? =
        some (if (grbSlot (shownColor sc b t) j).getLsbD k then 0x06#8 else 0x04#8)) ∧
    ∀ n, n < 64 → (encodeFrame sc b f)[24 * f.length + n]? = some 0x00#8

/-- R29: every index of a payload is covered exactly once by the two formulas, and `roleAt` (R18) says by
which. -/
def Obligations.PayloadMapCoversOnce : Prop :=
  ∀ n : Nat,
    (∀ i j k, i < n → j ≤ 2 → k ≤ 7 →
      payloadIndex i j k < 24 * n ∧ roleAt n (payloadIndex i j k) = .data i j k) ∧
    (∀ m, m < 64 → 24 * n + m < payloadLength n ∧ roleAt n (24 * n + m) = .pad m) ∧
    ∀ pos, pos < payloadLength n →
      (∃ i j k, i < n ∧ j ≤ 2 ∧ k ≤ 7 ∧ payloadIndex i j k = pos) ∨
      ∃ m, m < 64 ∧ 24 * n + m = pos

/-! ### INIT -/

/-- INIT completes (R81, R16): on a block never initialised, with a legal brightness, a usable device and a
positive bus speed, CFG is loaded, the block is open, RES carries `ok`; nothing else changes. -/
def Obligations.InitLoadsConfiguration : Prop :=
  ∀ (s : State) (n : Nat) (b v : Ratio) (d : DeviceName),
    s.opened = false → s.cfg = none → b.isBrightness = true → v.isRate = true →
    d ∉ s.platform.badDevices →
    exec (.init n b (some d) v) s = .next
      { s with
        cfg := some ⟨n, b, d, v⟩
        opened := true
        busy := false
        pos := 0
        sdo := false
        port := none
        res := some ⟨s.caller, .status .ok⟩ }

/-- INIT with a missing or unusable device (R81, R100, R105): `StartupError` carrying the device is the
result, `opened` and CFG stay as they are, the framer is idle; nothing else changes. That the bit index is
then 0 is the model's choice (log entry 31), and that the error is the result of a next state is log entry
11. -/
def Obligations.InitRaisesStartupError : Prop :=
  ∀ (s : State) (n : Nat) (b v : Ratio) (d : Option DeviceName),
    s.opened = false → s.cfg = none → s.parked = [] → b.isBrightness = true → v.isRate = true →
    (∀ x, d = some x → x ∈ s.platform.badDevices) →
    exec (.init n b d v) s = .next
      { s with
        busy := false
        pos := 0
        q := 0
        sdo := false
        job := none
        port := none
        res := some ⟨s.caller, .status (.startupError d)⟩ }

/-- INIT is refused when the block is open or CFG already has values, on an illegal brightness, and on a
bus speed that is no positive rate. That it is refused after SHUTDOWN too is the model's reading of R9 and
R92 (log entry 13), and that it is refused on the speed its reading of the type in R16 (log entry 24). -/
def Obligations.InitRefused : Prop :=
  (∀ (s : State) (n : Nat) (b v : Ratio) (d : Option DeviceName),
    (s.opened = true ∨ s.cfg ≠ none) → exec (.init n b d v) s = .refused .initTwice) ∧
  ∀ (s : State) (n : Nat) (b v : Ratio) (d : Option DeviceName),
    s.opened = false → s.cfg = none → ¬ (0 < b.den ∧ b.num ≤ b.den ∧ 0 < v.den ∧ 0 < v.num) →
    exec (.init n b d v) s = .refused .illegalParameter

/-! ### The encoder's operations -/

/-- ENCODE_LED completes on every open block (R68, R71): the 24 bytes green, red, blue on RES; nothing
else changes. -/
def Obligations.EncodeLedAnswers : Prop :=
  ∀ (s : State) (c : CfgRegs) (t : Rgb), Configured s c →
    exec (.encodeLed t) s = .next
      { s with
        port := none
        res := some ⟨s.caller, .fragment
          (encodeByte (scale t.g c.brightness) ++ encodeByte (scale t.r c.brightness)
            ++ encodeByte (scale t.b c.brightness))⟩ }

/-- ENCODE_FRAME completes on every open block for every Frame of LED_COUNT triples (R70, R71): the
payload on RES; nothing else changes, nothing is emitted. -/
def Obligations.EncodeFrameAnswers : Prop :=
  ∀ (s : State) (c : CfgRegs) (f : Frame), Configured s c → f.length = c.ledCount →
    exec (.encodeFrame f) s = .next
      { s with
        port := none
        res := some ⟨s.caller, .payload
          (f.flatMap (encodeLed scale c.brightness) ++ List.replicate 64 0x00#8)⟩ }

/-- R13: the encoder holds no state: two runs that agree on brightness and LED_COUNT give equal results,
whatever else differs. -/
def Obligations.EncoderDependsOnlyOnConfiguration : Prop :=
  ∀ (s s' t t' : State) (c c' : CfgRegs) (i : Instr),
    Configured s c → Configured s' c' → c.brightness = c'.brightness → c.ledCount = c'.ledCount →
    ((∃ x, i = .encodeLed x) ∨ ∃ f, i = .encodeFrame f) →
    exec i s = .next t → exec i s' = .next t' →
    t.res.map Response.result = t'.res.map Response.result

/-! ### Bus operations: acceptance, refusal, overlap -/

/-- TRANSFER of a well-formed payload is accepted on an idle open bus (R82): `busy`, `pos`, the operation
and its running record; nothing else changes. That the bit index is then 0 is the model's choice (log entry
31). That acceptance is a step of its own is log entry 1. -/
def Obligations.TransferAccepted : Prop :=
  ∀ (s : State) (c : CfgRegs) (p : Payload), Configured s c → s.busy = false →
    payloadWellFormed c.ledCount p = true →
    exec (.transfer p) s = .next
      { s with
        busy := true
        pos := 0
        q := 0
        job := some ⟨s.caller, p, false, s.wire.length⟩
        wire := s.wire ++ [⟨s.caller, [], .running⟩]
        port := none }

/-- SHOW of a Frame of LED_COUNT triples is `TRANSFER(ENCODE_FRAME(F))` (R90), on an idle bus and on a busy
one, and so always accepted: its payload is well-formed. That the bit index is then 0 is the model's choice
(log entry 31). That acceptance is a step of its own is log entry 1. On a busy block both sides are the
overlap of log entry 15. -/
def Obligations.ShowIsTransferOfEncodedFrame : Prop :=
  ∀ (s : State) (c : CfgRegs) (f : Frame), Configured s c → f.length = c.ledCount →
    exec (.showFrame f) s = exec (.transfer (encodeFrame scale c.brightness f)) s ∧
    (s.busy = false → exec (.showFrame f) s = .next
      { s with
        busy := true
        pos := 0
        q := 0
        job := some ⟨s.caller, encodeFrame scale c.brightness f, false, s.wire.length⟩
        wire := s.wire ++ [⟨s.caller, [], .running⟩]
        port := none })

/-- SHUTDOWN is accepted on an idle open bus (R92): its payload is `24 × LED_COUNT` bytes 0x04 and 64 bytes
0x00 whatever the brightness; `opened` is still 1 while it runs. That the bit index is then 0 is the model's
choice (log entry 31). That acceptance is a step of its own is log entry 1. That opened stays 1 until the
transaction ends is log entry 27. -/
def Obligations.ShutdownAccepted : Prop :=
  ∀ (s : State) (c : CfgRegs), Configured s c → s.busy = false →
    exec .shutdown s = .next
      { s with
        busy := true
        pos := 0
        q := 0
        job := some ⟨s.caller,
          List.replicate (24 * c.ledCount) 0x04#8 ++ List.replicate 64 0x00#8, true, s.wire.length⟩
        wire := s.wire ++ [⟨s.caller, [], .running⟩]
        port := none }

/-- R94: while `opened = 0` every operation but INIT is refused. -/
def Obligations.RefusedWhileNotOpened : Prop :=
  ∀ (s : State), s.opened = false →
    (∀ t, exec (.encodeLed t) s = .refused .notOpened) ∧
    (∀ f, exec (.encodeFrame f) s = .refused .notOpened) ∧
    (∀ p, exec (.transfer p) s = .refused .notOpened) ∧
    (∀ f, exec (.showFrame f) s = .refused .notOpened) ∧
    exec .shutdown s = .refused .notOpened

/-- R35: a sequence of triples whose length is not LED_COUNT is no Frame and is refused. -/
def Obligations.WrongFrameLengthRefused : Prop :=
  ∀ (s : State) (c : CfgRegs) (f : Frame), Configured s c → f.length ≠ c.ledCount →
    exec (.encodeFrame f) s = .refused .frameLength ∧
    exec (.showFrame f) s = .refused .frameLength

/-- R83: what a well-formed payload is, byte by byte; that it is the same as being ENCODE_FRAME of a Frame
at brightness 1; and that TRANSFER on an open block, busy or not, accepts exactly these. -/
def Obligations.TransferAcceptsExactlyPayloads : Prop :=
  (∀ (n : Nat) (p : Payload), payloadWellFormed n p = true ↔
    p.length = 24 * n + 64 ∧
    (∀ i v, i < 24 * n → p[i]? = some v → v = 0x04#8 ∨ v = 0x06#8) ∧
    ∀ i v, 24 * n ≤ i → p[i]? = some v → v = 0x00#8) ∧
  (∀ (n : Nat) (p : Payload), payloadWellFormed n p = true ↔
    ∃ f : Frame, f.length = n ∧ p = encodeFrame scale ⟨1, 1⟩ f) ∧
  ∀ (s : State) (c : CfgRegs) (p : Payload), Configured s c →
    (payloadWellFormed c.ledCount p = true → ∃ t, exec (.transfer p) s = .next t) ∧
    (payloadWellFormed c.ledCount p = false → exec (.transfer p) s = .refused .malformedPayload)

/-- R95, R23: a bus operation requested while `busy = 1` sets the sticky mark. That it then waits for turns
on the line beside the running one, with its own record, and that the chain takes free values, is the
model's choice of the second alternative of R95 (log entry 15). -/
def Obligations.OverlapMarksConflict : Prop :=
  ∀ (s : State) (c : CfgRegs) (p : Payload) (cl : Bool) (i : Instr),
    Configured s c → s.busy = true →
    ((i = .transfer p ∧ payloadWellFormed c.ledCount p = true ∧ cl = false) ∨
      (∃ f : Frame, i = .showFrame f ∧ f.length = c.ledCount ∧ cl = false ∧
        p = encodeFrame scale c.brightness f) ∨
      (i = .shutdown ∧ cl = true ∧ p = encodeFrame scale c.brightness (blackFrame c.ledCount))) →
    exec i s = .next
      { s with
        busConflict := true
        parked := s.parked ++ [⟨⟨s.caller, p, cl, s.wire.length⟩, 0⟩]
        wire := s.wire ++ [⟨s.caller, [], .running⟩]
        port := none
        chain := Chain.unspecified s.draws s.platform.chainLen
        draws := s.draws + 1 }

/-- R61 to R63: the pseudo-operations are SHOWs of Frames of LED_COUNT triples, never refused on an open
block; their payloads. On a busy block what they start is the overlap of log entry 15. -/
def Obligations.PseudoOperationsAreShows : Prop :=
  ∀ (s : State) (c : CfgRegs) (n : Nat) (x : Rgb), Configured s c → n ≤ c.ledCount →
    exec (solid c.ledCount x) s = .next (s.startTransaction
      ((List.replicate c.ledCount (encodeLed scale c.brightness x)).flatten ++ pad) false) ∧
    exec (bar c.ledCount n x) s = .next (s.startTransaction
      ((List.replicate n (encodeLed scale c.brightness x)).flatten
        ++ List.replicate (24 * (c.ledCount - n)) 0x04#8 ++ pad) false) ∧
    exec (clear c.ledCount) s = .next (s.startTransaction
      (List.replicate (24 * c.ledCount) 0x04#8 ++ pad) false)

/-! ### The framer's bytes -/

/-- R84, R85, R43: each byte of the code book, when the bus does not fail and bytes are left after it, goes
out: on the line in the platform's mode, into the framer's record, to the chain, and `pos` goes up by one;
nothing else changes. After an overlap the chain is unspecified instead (R42), and all that is said there is
the model's choice (log entry 15). Where the chain is no match for the payload its bits follow G1 and G2
(log entry 18). That the bit index is then 0 is the model's choice (log entry 31). -/
def Obligations.ByteGoesOut : Prop :=
  ∀ (s : State) (j : Job) (i : Instr) (v : Byte),
    ((i = .symZero ∧ v = 0x04#8) ∨ (i = .symOne ∧ v = 0x06#8) ∨ (i = .padByte ∧ v = 0x00#8)) →
    Sending s j → s.bus = .ok → s.pos + 1 < j.payload.length →
    (s.busConflict = false → exec i s = .next
      { s with
        sdo := false
        q := 0
        line := s.line ++ wirePattern s.platform.wireMode v
        pos := s.pos + 1
        wire := appendByte j.index v s.wire
        chain := s.chain.takeByte s.platform.chainLen v }) ∧
    (s.busConflict = true → exec i s = .next
      { s with
        sdo := false
        q := 0
        line := s.line ++ wirePattern s.platform.wireMode v
        pos := s.pos + 1
        wire := appendByte j.index v s.wire
        chain := Chain.unspecified s.draws s.platform.chainLen
        draws := s.draws + 1 })

/-- R87, R82: the last byte of a transaction that overlapped no other: it goes out, the record is complete,
the chain latches, the framer is idle, the requester gets `ok`, and a SHUTDOWN's end clears `opened`;
nothing else changes. That the bit index is then 0 is the model's choice (log entry 31). That opened falls
in this step is log entry 27. Where the chain is no match for the payload its bits follow G1 and G2 (log
entry 18), and where k is unknown the display is a free value (log entry 9). -/
def Obligations.LastByteCompletes : Prop :=
  ∀ (s : State) (j : Job) (i : Instr) (v : Byte),
    ((i = .symZero ∧ v = 0x04#8) ∨ (i = .symOne ∧ v = 0x06#8) ∨ (i = .padByte ∧ v = 0x00#8)) →
    Sending s j → NoOverlap s → s.bus = .ok → j.payload.length ≤ s.pos + 1 →
    exec i s = .next
      { s with
        line := s.line ++ wirePattern s.platform.wireMode v
        wire := setMark j.index .complete (appendByte j.index v s.wire)
        chain := (s.chain.takeByte s.platform.chainLen v).latch s.platform.chainLen s.draws
        draws := s.draws + 1
        busy := false
        pos := 0
        q := 0
        sdo := false
        job := none
        opened := s.opened && !j.closing
        status := some .ok
        port := none
        res := some ⟨j.requester, .status .ok⟩ }

/-- R88, R99, R105: the bus fails before the byte: nothing goes out, the record is failed, the chain is
unspecified with `k` unknown, the framer is idle, the requester gets `TransferError`, and a SHUTDOWN's end
clears `opened` even then (R92); nothing else changes. That the bit index is then 0 is the model's choice
(log entry 31). That the error is the result of a next state is log entry 11, that opened falls in this step
log entry 27, the free value's form log entry 9, and what is said after an overlap log entry 15. -/
def Obligations.BusFailureBeforeByte : Prop :=
  ∀ (s : State) (j : Job) (c : Nat) (i : Instr),
    (i = .symZero ∨ i = .symOne ∨ i = .padByte) →
    Sending s j → s.parked = [] → s.bus = .failBefore c →
    exec i s = .next
      { s with
        bus := .ok
        wire := setMark j.index .failed s.wire
        chain := Chain.unspecified s.draws s.platform.chainLen
        draws := s.draws + 1
        busy := false
        pos := 0
        q := 0
        sdo := false
        job := none
        opened := s.opened && !j.closing
        status := some (.transferError c)
        port := none
        res := some ⟨j.requester, .status (.transferError c)⟩ }

/-- R88: the bus fails after the byte went out, so that a failed record can hold any prefix of the payload,
the whole of it included (log entry 16); else as for a failure before it. That the bit index is then 0 is
the model's choice (log entry 31). That the error is the result of a next state is log entry 11, that opened
falls in this step log entry 27, and the free value's form log entry 9. -/
def Obligations.BusFailureAfterByte : Prop :=
  ∀ (s : State) (j : Job) (c : Nat) (i : Instr) (v : Byte),
    ((i = .symZero ∧ v = 0x04#8) ∨ (i = .symOne ∧ v = 0x06#8) ∨ (i = .padByte ∧ v = 0x00#8)) →
    Sending s j → NoOverlap s → s.bus = .failAfter c →
    exec i s = .next
      { s with
        bus := .ok
        line := s.line ++ wirePattern s.platform.wireMode v
        wire := setMark j.index .failed (appendByte j.index v s.wire)
        chain := Chain.unspecified s.draws s.platform.chainLen
        draws := s.draws + 1
        busy := false
        pos := 0
        q := 0
        sdo := false
        job := none
        opened := s.opened && !j.closing
        status := some (.transferError c)
        port := none
        res := some ⟨j.requester, .status (.transferError c)⟩ }

/-- THE MODEL'S CHOICE (log entry 22): a byte of the code book that is run while no transaction runs faults.
The spec says nothing of it: it sends bytes only inside a transaction, and no run reaches this. -/
def Obligations.ByteWithoutTransactionFaults : Prop :=
  ∀ (s : State) (i : Instr), (i = .symZero ∨ i = .symOne ∨ i = .padByte) → s.busy = false →
    exec i s = .fault .noTransaction

/-- R104: refusals come before the overlap check: whether a bus operation is refused, and why, does not
depend on `busy` or on what the framer holds. -/
def Obligations.RefusalsPrecedeOverlapCheck : Prop :=
  ∀ (s s' : State) (i : Instr) (r : Refusal), s'.opened = s.opened → s'.cfg = s.cfg →
    ((∃ p, i = .transfer p) ∨ (∃ f, i = .showFrame f) ∨ i = .shutdown) →
    (exec i s = .refused r ↔ exec i s' = .refused r)

/-! ### The step -/

/-- A step runs the decoded instruction: a request on the port, with what the last step delivered gone
(log entry 17). Under `InRange` (R129) on an open block that request is not refused, unless it is the INIT
that R81 refuses. -/
def Obligations.StepRunsRequestOnPort : Prop :=
  (∀ (s : State) (p : Port) (i : Instr), s.port = some p → decode (.request p.op p.opnd) = .ok i →
    step s = exec i { s with res := none, status := none }) ∧
  ∀ (s : State) (c : CfgRegs) (p : Port), Configured s c → InRange s → s.port = some p →
    p.op ≠ 0b000#3 → ∃ t, step s = .next t

/-- A step runs the decoded instruction: the payload byte at `pos`, when no turn is laid down and when the
turn is the framer's with nothing waiting; the bus's answer is the turn's (log entries 2 and 17). That the
operation which has the line goes on when others wait and no turn is laid down is log entry 15. -/
def Obligations.StepRunsByteAtPosition : Prop :=
  ∀ (s : State) (j : Job) (v : Byte) (i : Instr), s.port = none → Sending s j →
    j.payload[s.pos]? = some v → decode (.payloadByte v) = .ok i →
    (s.turns = [] → step s = exec i { s with res := none, status := none, bus := .ok }) ∧
    ∀ (pick : Nat) (ev : BusEvent) (ts : List Turn), s.turns = .bus pick ev :: ts → s.parked = [] →
      step s = exec i { s with res := none, status := none, turns := ts, bus := ev }

/-- R95, second alternative: when the turn picks an overlapping operation, its byte at its own position is
the one that goes out, and the other waits where it stood. The interleaving is the model's choice (log entry
15). The turns are log entry 2, and that RES and status are emptied is log entry 17. -/
def Obligations.OverlappingBytesInterleave : Prop :=
  ∀ (s : State) (j : Job) (p : Parked) (v : Byte) (i : Instr) (pick : Nat) (ev : BusEvent)
    (ts : List Turn), s.port = none → Sending s j → s.turns = .bus pick ev :: ts →
    s.parked[pick]? = some p → p.job.payload[p.pos]? = some v →
    decode (.payloadByte v) = .ok i →
    step s = exec i
      { s with
        res := none
        status := none
        turns := ts
        bus := ev
        job := some p.job
        pos := p.pos
        parked := s.parked.set pick ⟨j, s.pos⟩ }

/-- R41, R86, R109: a requester places its requests in program order, and none while it is blocked: while an
operation of its own has the line, or waits for it after an overlap (log entry 15). The turns are the
model's form of the environment, and which requester moves when no turn is laid down (the default of log
entry 2) is not said here. That every such step also empties RES and status is log entry 17. -/
def Obligations.RequestersIssueInOrder : Prop :=
  (∀ (s : State) (n : Nat), s.blocked n = true ↔
    (∃ j, s.job = some j ∧ j.requester = n) ∨ ∃ p ∈ s.parked, p.job.requester = n) ∧
  ∀ (s : State) (n : Nat) (ts : List Turn), s.port = none → s.turns = .issue n :: ts →
    (s.blocked n = true → step s = .next { s with res := none, status := none, turns := ts }) ∧
    ((s.programs[n]? = none ∨ s.programs[n]? = some []) →
      step s = .next { s with res := none, status := none, turns := ts }) ∧
    ∀ (r : Request) (rest : List Request), s.programs[n]? = some (r :: rest) →
      s.blocked n = false →
      step s = .next
        { s with
          res := none
          status := none
          turns := ts
          port := some ⟨n, r.op, r.opnd⟩
          programs := s.programs.set n rest }

/-- R130, R27, R114: when a run has ended the block waits: a step changes nothing but that what the last
step delivered is gone and the next turn of the schedule, if one is still laid down, is used up (log entries
2 and 17). -/
def Obligations.EndedRunStaysIdle : Prop :=
  ∀ s : State, RunEnded s → step s = .next { s with res := none, status := none, turns := s.turns.tail }

/-! ### Whole transactions -/

/-- R84, R86, R87: a transaction that starts on a bus that saw no overlap and meets no failure ends after
exactly as many steps as it has bytes: its record is the payload, complete; the line carried the payload's
periods; the chain took every byte and latched; the requester got `ok`; configuration and platform are as
before. The framer's turns may be laid down or not. One byte a step, and the framer going on when no turn is
left, are log entries 1 and 2. That opened falls with the end of a SHUTDOWN's transaction is log entry 27;
where the chain is no match for the payload its bits follow G1 and G2 (log entry 18), and where k is unknown
the display is a free value (log entry 9). -/
def Obligations.TransactionRunsToCompletion : Prop :=
  ∀ (s : State) (j : Job) (n : Nat), Undisturbed s → Sending s j → NoOverlap s → s.pos = 0 →
    payloadWellFormed n j.payload = true →
    s.wire[j.index]? = some ⟨j.requester, [], .running⟩ →
    ∃ t, Host.Core.run core (24 * n + 64) s = .next t ∧
      t.busy = false ∧ t.pos = 0 ∧ t.sdo = false ∧ t.busConflict = false ∧
      t.wire = s.wire.set j.index ⟨j.requester, j.payload, .complete⟩ ∧
      t.line = s.line ++ lineOf s.platform.wireMode j.payload ∧
      t.chain = (j.payload.foldl (fun c v => c.takeByte s.platform.chainLen v) s.chain).latch
        s.platform.chainLen s.draws ∧
      t.res = some ⟨j.requester, .status .ok⟩ ∧ t.status = some .ok ∧
      t.opened = (s.opened && !j.closing) ∧ t.cfg = s.cfg ∧ t.platform = s.platform

/-- R82, R33: TRANSFER of a well-formed payload on an idle bus, when nothing overlaps it and the bus does not
fail: one more record, holding exactly the payload, complete; the requester gets `ok`; the block is idle
and open as before. One byte a step, and the framer's turns laid down or not, are log entries 1 and 2. -/
def Obligations.TransferSendsPayload : Prop :=
  ∀ (s : State) (c : CfgRegs) (p : Payload), Configured s c → s.busy = false → NoOverlap s →
    FramerGoesOn s → payloadWellFormed c.ledCount p = true →
    ∃ t₀ t, exec (.transfer p) s = .next t₀ ∧
      Host.Core.run core (24 * c.ledCount + 64) t₀ = .next t ∧
      t.wire = s.wire ++ [⟨s.caller, p, .complete⟩] ∧
      t.res = some ⟨s.caller, .status .ok⟩ ∧
      t.busy = false ∧ t.pos = 0 ∧ t.sdo = false ∧ NoOverlap t ∧ Configured t c ∧
      t.chain.k = some 0

/-- R92, R94: SHUTDOWN on an idle bus, when nothing overlaps it and the bus does not fail: every LED of a
matching chain with `k = 0` shows black, and the block is closed: in every state a run reaches from there
`opened` is still 0 and every operation but INIT is refused. One byte a step, and the framer's turns laid
down or not, are log entries 1 and 2; that no later INIT opens the block is log entry 13. That opened falls
with the end of the transaction is log entry 27. -/
def Obligations.ShutdownClearsAndCloses : Prop :=
  ∀ (s : State) (c : CfgRegs), Configured s c → s.busy = false → NoOverlap s → FramerGoesOn s →
    s.platform.chainLen = c.ledCount → ChainFits s → ChainIdleAtStart s →
    ∃ t₀ t, exec .shutdown s = .next t₀ ∧
      Host.Core.run core (24 * c.ledCount + 64) t₀ = .next t ∧
      t.res = some ⟨s.caller, .status .ok⟩ ∧ t.opened = false ∧ t.busy = false ∧
      t.chain.display = List.replicate c.ledCount ⟨0, 0, 0⟩ ∧
      ∀ (k : Nat) (u : State), Host.Core.run core k t = .next u →
        u.opened = false ∧
        (∀ x, exec (.encodeLed x) u = .refused .notOpened) ∧
        (∀ f, exec (.encodeFrame f) u = .refused .notOpened) ∧
        (∀ p, exec (.transfer p) u = .refused .notOpened) ∧
        (∀ f, exec (.showFrame f) u = .refused .notOpened) ∧
        exec .shutdown u = .refused .notOpened

/-- R44, R129: from a chain with `k = 0` as long as the configured strip, a SHOW on an idle bus leaves every
LED showing its scaled color in (g, r, b) order, and `k = 0`. First: it gets there in one step for each byte
when only the framer moves and the bus does not fail (log entries 1 and 2). Second: whatever turns and
requests are laid down, in every state a run reaches in which the transaction has ended, met no bus failure,
and is still the last one of WIRE (so that none overlapped or followed it), the record is the whole payload,
complete, and the LEDs show the Frame. That an overlap would have added a record, so that a transaction
still the last of WIRE met none, is log entry 15. -/
def Obligations.ShowDisplaysScaledFrame : Prop :=
  ∀ (s : State) (c : CfgRegs) (f : Frame), Configured s c → s.busy = false → NoOverlap s →
    f.length = c.ledCount → s.platform.chainLen = c.ledCount → ChainFits s → ChainIdleAtStart s →
    ∃ t₀, exec (.showFrame f) s = .next t₀ ∧
      (FramerGoesOn s → ∃ t, Host.Core.run core (24 * c.ledCount + 64) t₀ = .next t ∧
        t.res = some ⟨s.caller, .status .ok⟩ ∧
        t.wire = s.wire ++ [⟨s.caller, encodeFrame scale c.brightness f, .complete⟩] ∧
        t.chain.k = some 0 ∧
        t.chain.display = f.map fun x =>
          ⟨scale x.g c.brightness, scale x.r c.brightness, scale x.b c.brightness⟩) ∧
      ∀ (k : Nat) (t : State), Host.Core.run core k t₀ = .next t →
        TransactionEnded s.wire.length t → BusOk s.wire.length t →
        t.wire.length = s.wire.length + 1 →
        t.wire = s.wire ++ [⟨s.caller, encodeFrame scale c.brightness f, .complete⟩] ∧
        t.chain.k = some 0 ∧
        t.chain.display = f.map fun x =>
          ⟨scale x.g c.brightness, scale x.r c.brightness, scale x.b c.brightness⟩

/-- R122, R43, U7: after a failure `k` is unknown; the next complete transaction, whatever its Frame, leaves
`k = 0` and the colors unspecified (a free value), so that it is the one after it that is sure to show
its Frame (ShowDisplaysScaledFrame). One byte a step, and the framer's turns laid down or not, are log
entries 1 and 2; the free value's form is log entry 9. -/
def Obligations.FirstTransactionAfterFailureResynchronises : Prop :=
  ∀ (s : State) (c : CfgRegs) (f : Frame), Configured s c → s.busy = false → NoOverlap s →
    FramerGoesOn s → f.length = c.ledCount → s.chain.k = none →
    ∃ t₀ t, exec (.showFrame f) s = .next t₀ ∧
      Host.Core.run core (24 * c.ledCount + 64) t₀ = .next t ∧
      t.busy = false ∧ NoOverlap t ∧ FramerGoesOn t ∧ Configured t c ∧
      t.chain.k = some 0 ∧
      t.chain.display = (Chain.unspecified s.draws s.platform.chainLen).display

/-- R38: the same payload sent twice, each time completely from `k = 0`, leaves the display as after once. It
is stated for every chain length; where that differs from the payload's LED count it rests on G1 and G2
(dropped bits, LEDs not reached keep their color), which the spec takes from general knowledge (log entry
18, PRESUMED, unsafe there). -/
def Obligations.RepeatedPayloadLeavesDisplay : Prop :=
  ∀ (n len d d' : Nat) (p : Payload) (c : Chain), payloadWellFormed n p = true → c.k = some 0 →
    c.shadow.length = 24 * len → c.display.length = len →
    let once := (p.foldl (fun c v => c.takeByte len v) c).latch len d
    ((p.foldl (fun c v => c.takeByte len v) once).latch len d').display = once.display

/-! ### The data line -/

/-- R55: the patterns on SDO for each byte of the code book and each mode, first period first, and the one
high pulse of a data bit. -/
def Obligations.WirePatterns : Prop :=
  wirePattern .w8Msb 0x06#8 = [false, false, false, false, false, true, true, false] ∧
  wirePattern .w8Lsb 0x06#8 = [false, true, true, false, false, false, false, false] ∧
  wirePattern .w3Msb 0x06#8 = [true, true, false] ∧
  wirePattern .w8Msb 0x04#8 = [false, false, false, false, false, true, false, false] ∧
  wirePattern .w8Lsb 0x04#8 = [false, false, true, false, false, false, false, false] ∧
  wirePattern .w3Msb 0x04#8 = [true, false, false] ∧
  (∀ m, wirePattern m 0x00#8 = List.replicate (periodsPerByte m) false) ∧
  ∀ m d, highRunsFrom 0 (wirePattern m (symbol d)) = [if d then 2 else 1]

/-- R128, R85: the bit periods of a transaction. -/
def Obligations.PeriodsPerTransaction : Prop :=
  ∀ (n : Nat) (p : Payload), payloadWellFormed n p = true →
    (lineOf .w8Msb p).length = 192 * n + 512 ∧
    (lineOf .w8Lsb p).length = 192 * n + 512 ∧
    (lineOf .w3Msb p).length = 72 * n + 192

/-- R43, bit level: in every mode the line of a payload, read by pulse width, carries the payload's data
bits. -/
def Obligations.LineCarriesDataBits : Prop :=
  ∀ (m : WireMode) (n : Nat) (p : Payload), payloadWellFormed n p = true →
    readLine (lineOf m p) = some (p.filterMap decodeSymbol)

/-- R40: the reset block is 512 (192) low periods, and no low run among the data bytes is longer than 7
(2). -/
def Obligations.OnlyResetBlockIsLongLow : Prop :=
  ∀ (n : Nat) (p : Payload), payloadWellFormed n p = true →
    lineOf .w8Msb (p.drop (24 * n)) = List.replicate 512 false ∧
    lineOf .w8Lsb (p.drop (24 * n)) = List.replicate 512 false ∧
    lineOf .w3Msb (p.drop (24 * n)) = List.replicate 192 false ∧
    longestLowFrom 0 (lineOf .w8Msb (p.take (24 * n))) ≤ 7 ∧
    longestLowFrom 0 (lineOf .w8Lsb (p.take (24 * n))) ≤ 7 ∧
    longestLowFrom 0 (lineOf .w3Msb (p.take (24 * n))) ≤ 2

/-- R43, R40: under `ResetSuffices` the chain that reads SDO bit by bit ends a payload exactly as the chain
that takes its bytes and latches at the end. Both take bits and latch alike, so that where the chain is no
match for the payload both rest on G1 and G2 (log entry 18); when the bit-level chain latches is log entry
25. -/
def Obligations.BitLevelChainAgrees : Prop :=
  ∀ (pl : Platform) (n d low : Nat) (p : Payload) (c : Chain), resetSuffices pl = true →
    payloadWellFormed n p = true → pl.resetUnits ≤ low → c.k = some 0 →
    (BitChain.read pl d (lineOf pl.wireMode p) ⟨0, low, c⟩).chain =
      (p.foldl (fun c v => c.takeByte pl.chainLen v) c).latch pl.chainLen d

/-! ### Reset and what every step keeps -/

/-- R27, R116: the state after block reset, on every platform, and that `State.reset` is one of these. -/
def Obligations.BlockReset : Prop :=
  (∃ p, State.reset = State.powerOn p) ∧
  ∀ p : Platform,
    let s := State.powerOn p
    s.platform = p ∧ s.cfg = none ∧ s.opened = false ∧ s.busy = false ∧ s.pos = 0 ∧ s.sdo = false ∧
    s.busConflict = false ∧ s.wire = [] ∧ s.status = none ∧ s.res = none ∧ s.port = none ∧
    s.job = none ∧ s.chain.k = none

/-- The invariant holds after block reset, on every platform. That it puts the bit index at 0 is the model's
choice (log entry 31). What else of Inv is the model's choice StepKeepsInvariant names. -/
def Obligations.BlockResetMeetsInvariant : Prop := ∀ p : Platform, Inv (State.powerOn p)

/-- R16, R17, R18, R20, R21, R22, R24, R36: the invariant is kept by every step. That it puts the bit index
at 0 between steps is the model's choice (log entry 31). What Inv says of states after an overlap is log
entry 15, that the bus speed is positive log entry 24, and that the line is low between bytes log entries 1
and 29. -/
def Obligations.StepKeepsInvariant : Prop :=
  ∀ s t : State, Inv s → step s = .next t → Inv t

/-- R23: no step clears the overlap mark, and a step sets it only while `busy = 1`. That this step leaves
`busy` at 1 and adds a record to WIRE, the overlapping operation's own, is the model's choice (log entry 15):
R82 stops before the record is appended, and R95 lets nothing be claimed about WIRE afterwards. -/
def Obligations.BusConflictIsSticky : Prop :=
  ∀ s t : State, step s = .next t →
    (s.busConflict = true → t.busConflict = true) ∧
    (s.busConflict = false → t.busConflict = true →
      s.busy = true ∧ t.busy = true ∧ t.wire.length = s.wire.length + 1)

/-- R9, R16: CFG, once loaded, is constant, and no step changes the platform's parameters. -/
def Obligations.ConfigurationIsConstant : Prop :=
  ∀ s t : State, step s = .next t →
    (∀ c, s.cfg = some c → t.cfg = some c) ∧ t.platform = s.platform

/-- R22, R92: only a successful INIT opens the block, and only the end of a SHUTDOWN closes it. That no INIT
opens the block again after a SHUTDOWN (opened rises only where CFG has no value) is the model's reading of
R9 and R92 (log entry 13), since the check of R81 reads opened alone. That a SHUTDOWN which overlapped
closes when it ends, waiting or on the line, is the model's choice (log entry 15); that opened falls with
the end of the transaction is log entry 27. -/
def Obligations.OnlyInitOpensOnlyShutdownCloses : Prop :=
  ∀ s t : State, step s = .next t →
    (s.opened = false → t.opened = true →
      s.cfg = none ∧ ∃ c, t.cfg = some c ∧ t.res.map Response.result = some (.status .ok)) ∧
    (s.opened = true → t.opened = false →
      t.status ≠ none ∧ ∃ j, j.closing = true ∧ (s.job = some j ∨ ∃ p ∈ s.parked, p.job = j))

/-- R21, R36, R89: WIRE only grows, by at most one record a step, and only when a TRANSFER, SHOW or SHUTDOWN
stands on the request port: the block resends nothing on its own. As long as nothing overlapped a record
that has ended is never written again. What the first clause says of WIRE from an overlap on, the record of
the overlapping operation included, is the model's choice (log entry 15). -/
def Obligations.EndedRecordsNeverChange : Prop :=
  (∀ s t : State, step s = .next t →
    s.wire.length ≤ t.wire.length ∧ t.wire.length ≤ s.wire.length + 1 ∧
    (s.wire.length < t.wire.length →
      ∃ p, s.port = some p ∧ (p.op = 0b011#3 ∨ p.op = 0b100#3 ∨ p.op = 0b101#3))) ∧
  ∀ s t : State, Inv s → s.busConflict = false → step s = .next t →
    ∀ (i : Nat) (r : Record), s.wire[i]? = some r → r.mark ≠ .running → t.wire[i]? = some r

/-- R24, R87: as long as nothing overlapped, what the LEDs show changes only when a transaction ends. That
status is set in exactly the steps in which a transaction ends is log entry 17. -/
def Obligations.DisplayChangesOnlyAtTransactionEnd : Prop :=
  ∀ s t : State, step s = .next t → t.busConflict = false → t.status = none →
    t.chain.display = s.chain.display

/-- R17, R20: `busy` falls only when a transaction ends, and it rises only by accepting one, with a new
running record. It also speaks of states after an overlap: that busy then falls only with the end of the
last operation, and what pos, SDO and WIRE are there, is the model's choice (log entry 15). That status is
set in the step of the end and in no other is log entry 17. -/
def Obligations.BusyRisesAndFallsWithTransactions : Prop :=
  ∀ s t : State, Inv s → step s = .next t →
    (s.busy = true → t.busy = false → t.status ≠ none ∧ t.pos = 0 ∧ t.sdo = false) ∧
    (s.busy = false → t.busy = true → t.pos = 0 ∧ t.status = none ∧
      ∃ q, t.wire = s.wire ++ [⟨q, [], .running⟩])
end

