-- ==== Sys2Proof/Laws/State.lean ====
section
/-! SUPPORT. One lemma for each field of State and each update of it that is a plain record: what the
field is afterwards. No later proof unfolds these updates. -/

namespace Sys2Proof.Machine


/-! ### tick -/

@[simp] theorem State.tick_platform (s : State) : s.tick.platform = s.platform := rfl
@[simp] theorem State.tick_cfg (s : State) : s.tick.cfg = s.cfg := rfl
@[simp] theorem State.tick_opened (s : State) : s.tick.opened = s.opened := rfl
@[simp] theorem State.tick_busy (s : State) : s.tick.busy = s.busy := rfl
@[simp] theorem State.tick_pos (s : State) : s.tick.pos = s.pos := rfl
@[simp] theorem State.tick_q (s : State) : s.tick.q = s.q := rfl
@[simp] theorem State.tick_sdo (s : State) : s.tick.sdo = s.sdo := rfl
@[simp] theorem State.tick_busConflict (s : State) : s.tick.busConflict = s.busConflict := rfl
@[simp] theorem State.tick_status (s : State) : s.tick.status = none := rfl
@[simp] theorem State.tick_port (s : State) : s.tick.port = s.port := rfl
@[simp] theorem State.tick_res (s : State) : s.tick.res = none := rfl
@[simp] theorem State.tick_job (s : State) : s.tick.job = s.job := rfl
@[simp] theorem State.tick_parked (s : State) : s.tick.parked = s.parked := rfl
@[simp] theorem State.tick_wire (s : State) : s.tick.wire = s.wire := rfl
@[simp] theorem State.tick_line (s : State) : s.tick.line = s.line := rfl
@[simp] theorem State.tick_chain (s : State) : s.tick.chain = s.chain := rfl
@[simp] theorem State.tick_programs (s : State) : s.tick.programs = s.programs := rfl
@[simp] theorem State.tick_turns (s : State) : s.tick.turns = s.turns := rfl
@[simp] theorem State.tick_bus (s : State) : s.tick.bus = s.bus := rfl
@[simp] theorem State.tick_draws (s : State) : s.tick.draws = s.draws := rfl

/-! ### respond -/

@[simp] theorem State.respond_platform (s : State) (r : Result) : (s.respond r).platform = s.platform := rfl
@[simp] theorem State.respond_cfg (s : State) (r : Result) : (s.respond r).cfg = s.cfg := rfl
@[simp] theorem State.respond_opened (s : State) (r : Result) : (s.respond r).opened = s.opened := rfl
@[simp] theorem State.respond_busy (s : State) (r : Result) : (s.respond r).busy = s.busy := rfl
@[simp] theorem State.respond_pos (s : State) (r : Result) : (s.respond r).pos = s.pos := rfl
@[simp] theorem State.respond_q (s : State) (r : Result) : (s.respond r).q = s.q := rfl
@[simp] theorem State.respond_sdo (s : State) (r : Result) : (s.respond r).sdo = s.sdo := rfl
@[simp] theorem State.respond_busConflict (s : State) (r : Result) : (s.respond r).busConflict = s.busConflict := rfl
@[simp] theorem State.respond_status (s : State) (r : Result) : (s.respond r).status = s.status := rfl
@[simp] theorem State.respond_port (s : State) (r : Result) : (s.respond r).port = none := rfl
@[simp] theorem State.respond_res (s : State) (r : Result) : (s.respond r).res = some ⟨s.caller, r⟩ := rfl
@[simp] theorem State.respond_job (s : State) (r : Result) : (s.respond r).job = s.job := rfl
@[simp] theorem State.respond_parked (s : State) (r : Result) : (s.respond r).parked = s.parked := rfl
@[simp] theorem State.respond_wire (s : State) (r : Result) : (s.respond r).wire = s.wire := rfl
@[simp] theorem State.respond_line (s : State) (r : Result) : (s.respond r).line = s.line := rfl
@[simp] theorem State.respond_chain (s : State) (r : Result) : (s.respond r).chain = s.chain := rfl
@[simp] theorem State.respond_programs (s : State) (r : Result) : (s.respond r).programs = s.programs := rfl
@[simp] theorem State.respond_turns (s : State) (r : Result) : (s.respond r).turns = s.turns := rfl
@[simp] theorem State.respond_bus (s : State) (r : Result) : (s.respond r).bus = s.bus := rfl
@[simp] theorem State.respond_draws (s : State) (r : Result) : (s.respond r).draws = s.draws := rfl

/-! ### disturbChain -/

@[simp] theorem State.disturbChain_platform (s : State) : s.disturbChain.platform = s.platform := rfl
@[simp] theorem State.disturbChain_cfg (s : State) : s.disturbChain.cfg = s.cfg := rfl
@[simp] theorem State.disturbChain_opened (s : State) : s.disturbChain.opened = s.opened := rfl
@[simp] theorem State.disturbChain_busy (s : State) : s.disturbChain.busy = s.busy := rfl
@[simp] theorem State.disturbChain_pos (s : State) : s.disturbChain.pos = s.pos := rfl
@[simp] theorem State.disturbChain_q (s : State) : s.disturbChain.q = s.q := rfl
@[simp] theorem State.disturbChain_sdo (s : State) : s.disturbChain.sdo = s.sdo := rfl
@[simp] theorem State.disturbChain_busConflict (s : State) : s.disturbChain.busConflict = s.busConflict := rfl
@[simp] theorem State.disturbChain_status (s : State) : s.disturbChain.status = s.status := rfl
@[simp] theorem State.disturbChain_port (s : State) : s.disturbChain.port = s.port := rfl
@[simp] theorem State.disturbChain_res (s : State) : s.disturbChain.res = s.res := rfl
@[simp] theorem State.disturbChain_job (s : State) : s.disturbChain.job = s.job := rfl
@[simp] theorem State.disturbChain_parked (s : State) : s.disturbChain.parked = s.parked := rfl
@[simp] theorem State.disturbChain_wire (s : State) : s.disturbChain.wire = s.wire := rfl
@[simp] theorem State.disturbChain_line (s : State) : s.disturbChain.line = s.line := rfl
@[simp] theorem State.disturbChain_chain (s : State) : s.disturbChain.chain = Chain.unspecified s.draws s.platform.chainLen := rfl
@[simp] theorem State.disturbChain_programs (s : State) : s.disturbChain.programs = s.programs := rfl
@[simp] theorem State.disturbChain_turns (s : State) : s.disturbChain.turns = s.turns := rfl
@[simp] theorem State.disturbChain_bus (s : State) : s.disturbChain.bus = s.bus := rfl
@[simp] theorem State.disturbChain_draws (s : State) : s.disturbChain.draws = s.draws + 1 := rfl

/-! ### beginTransaction -/

@[simp] theorem State.beginTransaction_platform (s : State) (p : Payload) (cl : Bool) : (s.beginTransaction p cl).platform = s.platform := rfl
@[simp] theorem State.beginTransaction_cfg (s : State) (p : Payload) (cl : Bool) : (s.beginTransaction p cl).cfg = s.cfg := rfl
@[simp] theorem State.beginTransaction_opened (s : State) (p : Payload) (cl : Bool) : (s.beginTransaction p cl).opened = s.opened := rfl
@[simp] theorem State.beginTransaction_busy (s : State) (p : Payload) (cl : Bool) : (s.beginTransaction p cl).busy = true := rfl
@[simp] theorem State.beginTransaction_pos (s : State) (p : Payload) (cl : Bool) : (s.beginTransaction p cl).pos = 0 := rfl
@[simp] theorem State.beginTransaction_q (s : State) (p : Payload) (cl : Bool) : (s.beginTransaction p cl).q = 0 := rfl
@[simp] theorem State.beginTransaction_sdo (s : State) (p : Payload) (cl : Bool) : (s.beginTransaction p cl).sdo = s.sdo := rfl
@[simp] theorem State.beginTransaction_busConflict (s : State) (p : Payload) (cl : Bool) : (s.beginTransaction p cl).busConflict = s.busConflict := rfl
@[simp] theorem State.beginTransaction_status (s : State) (p : Payload) (cl : Bool) : (s.beginTransaction p cl).status = s.status := rfl
@[simp] theorem State.beginTransaction_port (s : State) (p : Payload) (cl : Bool) : (s.beginTransaction p cl).port = none := rfl
@[simp] theorem State.beginTransaction_res (s : State) (p : Payload) (cl : Bool) : (s.beginTransaction p cl).res = s.res := rfl
@[simp] theorem State.beginTransaction_job (s : State) (p : Payload) (cl : Bool) : (s.beginTransaction p cl).job = some ⟨s.caller, p, cl, s.wire.length⟩ := rfl
@[simp] theorem State.beginTransaction_parked (s : State) (p : Payload) (cl : Bool) : (s.beginTransaction p cl).parked = s.parked := rfl
@[simp] theorem State.beginTransaction_wire (s : State) (p : Payload) (cl : Bool) : (s.beginTransaction p cl).wire = s.wire ++ [⟨s.caller, [], .running⟩] := rfl
@[simp] theorem State.beginTransaction_line (s : State) (p : Payload) (cl : Bool) : (s.beginTransaction p cl).line = s.line := rfl
@[simp] theorem State.beginTransaction_chain (s : State) (p : Payload) (cl : Bool) : (s.beginTransaction p cl).chain = s.chain := rfl
@[simp] theorem State.beginTransaction_programs (s : State) (p : Payload) (cl : Bool) : (s.beginTransaction p cl).programs = s.programs := rfl
@[simp] theorem State.beginTransaction_turns (s : State) (p : Payload) (cl : Bool) : (s.beginTransaction p cl).turns = s.turns := rfl
@[simp] theorem State.beginTransaction_bus (s : State) (p : Payload) (cl : Bool) : (s.beginTransaction p cl).bus = s.bus := rfl
@[simp] theorem State.beginTransaction_draws (s : State) (p : Payload) (cl : Bool) : (s.beginTransaction p cl).draws = s.draws := rfl

/-! ### overlapTransaction -/

@[simp] theorem State.overlapTransaction_platform (s : State) (p : Payload) (cl : Bool) : (s.overlapTransaction p cl).platform = s.platform := rfl
@[simp] theorem State.overlapTransaction_cfg (s : State) (p : Payload) (cl : Bool) : (s.overlapTransaction p cl).cfg = s.cfg := rfl
@[simp] theorem State.overlapTransaction_opened (s : State) (p : Payload) (cl : Bool) : (s.overlapTransaction p cl).opened = s.opened := rfl
@[simp] theorem State.overlapTransaction_busy (s : State) (p : Payload) (cl : Bool) : (s.overlapTransaction p cl).busy = s.busy := rfl
@[simp] theorem State.overlapTransaction_pos (s : State) (p : Payload) (cl : Bool) : (s.overlapTransaction p cl).pos = s.pos := rfl
@[simp] theorem State.overlapTransaction_q (s : State) (p : Payload) (cl : Bool) : (s.overlapTransaction p cl).q = s.q := rfl
@[simp] theorem State.overlapTransaction_sdo (s : State) (p : Payload) (cl : Bool) : (s.overlapTransaction p cl).sdo = s.sdo := rfl
@[simp] theorem State.overlapTransaction_busConflict (s : State) (p : Payload) (cl : Bool) : (s.overlapTransaction p cl).busConflict = true := rfl
@[simp] theorem State.overlapTransaction_status (s : State) (p : Payload) (cl : Bool) : (s.overlapTransaction p cl).status = s.status := rfl
@[simp] theorem State.overlapTransaction_port (s : State) (p : Payload) (cl : Bool) : (s.overlapTransaction p cl).port = none := rfl
@[simp] theorem State.overlapTransaction_res (s : State) (p : Payload) (cl : Bool) : (s.overlapTransaction p cl).res = s.res := rfl
@[simp] theorem State.overlapTransaction_job (s : State) (p : Payload) (cl : Bool) : (s.overlapTransaction p cl).job = s.job := rfl
@[simp] theorem State.overlapTransaction_parked (s : State) (p : Payload) (cl : Bool) : (s.overlapTransaction p cl).parked = s.parked ++ [⟨⟨s.caller, p, cl, s.wire.length⟩, 0⟩] := rfl
@[simp] theorem State.overlapTransaction_wire (s : State) (p : Payload) (cl : Bool) : (s.overlapTransaction p cl).wire = s.wire ++ [⟨s.caller, [], .running⟩] := rfl
@[simp] theorem State.overlapTransaction_line (s : State) (p : Payload) (cl : Bool) : (s.overlapTransaction p cl).line = s.line := rfl
@[simp] theorem State.overlapTransaction_chain (s : State) (p : Payload) (cl : Bool) : (s.overlapTransaction p cl).chain = Chain.unspecified s.draws s.platform.chainLen := rfl
@[simp] theorem State.overlapTransaction_programs (s : State) (p : Payload) (cl : Bool) : (s.overlapTransaction p cl).programs = s.programs := rfl
@[simp] theorem State.overlapTransaction_turns (s : State) (p : Payload) (cl : Bool) : (s.overlapTransaction p cl).turns = s.turns := rfl
@[simp] theorem State.overlapTransaction_bus (s : State) (p : Payload) (cl : Bool) : (s.overlapTransaction p cl).bus = s.bus := rfl
@[simp] theorem State.overlapTransaction_draws (s : State) (p : Payload) (cl : Bool) : (s.overlapTransaction p cl).draws = s.draws + 1 := rfl

/-! ### markEnd -/

@[simp] theorem State.markEnd_platform (s : State) (j : Job) (m : Mark) (st : Status) : (s.markEnd j m st).platform = s.platform := rfl
@[simp] theorem State.markEnd_cfg (s : State) (j : Job) (m : Mark) (st : Status) : (s.markEnd j m st).cfg = s.cfg := rfl
@[simp] theorem State.markEnd_opened (s : State) (j : Job) (m : Mark) (st : Status) : (s.markEnd j m st).opened = (s.opened && !j.closing) := rfl
@[simp] theorem State.markEnd_busy (s : State) (j : Job) (m : Mark) (st : Status) : (s.markEnd j m st).busy = s.busy := rfl
@[simp] theorem State.markEnd_pos (s : State) (j : Job) (m : Mark) (st : Status) : (s.markEnd j m st).pos = s.pos := rfl
@[simp] theorem State.markEnd_q (s : State) (j : Job) (m : Mark) (st : Status) : (s.markEnd j m st).q = s.q := rfl
@[simp] theorem State.markEnd_sdo (s : State) (j : Job) (m : Mark) (st : Status) : (s.markEnd j m st).sdo = s.sdo := rfl
@[simp] theorem State.markEnd_busConflict (s : State) (j : Job) (m : Mark) (st : Status) : (s.markEnd j m st).busConflict = s.busConflict := rfl
@[simp] theorem State.markEnd_status (s : State) (j : Job) (m : Mark) (st : Status) : (s.markEnd j m st).status = some st := rfl
@[simp] theorem State.markEnd_port (s : State) (j : Job) (m : Mark) (st : Status) : (s.markEnd j m st).port = s.port := rfl
@[simp] theorem State.markEnd_res (s : State) (j : Job) (m : Mark) (st : Status) : (s.markEnd j m st).res = s.res := rfl
@[simp] theorem State.markEnd_job (s : State) (j : Job) (m : Mark) (st : Status) : (s.markEnd j m st).job = s.job := rfl
@[simp] theorem State.markEnd_parked (s : State) (j : Job) (m : Mark) (st : Status) : (s.markEnd j m st).parked = s.parked := rfl
@[simp] theorem State.markEnd_wire (s : State) (j : Job) (m : Mark) (st : Status) : (s.markEnd j m st).wire = setMark j.index m s.wire := rfl
@[simp] theorem State.markEnd_line (s : State) (j : Job) (m : Mark) (st : Status) : (s.markEnd j m st).line = s.line := rfl
@[simp] theorem State.markEnd_chain (s : State) (j : Job) (m : Mark) (st : Status) : (s.markEnd j m st).chain = s.chain := rfl
@[simp] theorem State.markEnd_programs (s : State) (j : Job) (m : Mark) (st : Status) : (s.markEnd j m st).programs = s.programs := rfl
@[simp] theorem State.markEnd_turns (s : State) (j : Job) (m : Mark) (st : Status) : (s.markEnd j m st).turns = s.turns := rfl
@[simp] theorem State.markEnd_bus (s : State) (j : Job) (m : Mark) (st : Status) : (s.markEnd j m st).bus = .ok := rfl
@[simp] theorem State.markEnd_draws (s : State) (j : Job) (m : Mark) (st : Status) : (s.markEnd j m st).draws = s.draws := rfl

end Sys2Proof.Machine
end

