-- ==== Sys2Proof/Laws/Ops.lean ====
section
/-! SUPPORT. One lemma for each shared operation: everything it can do. -/

namespace Sys2Proof.Machine

/-! ### The line -/

/-- Driving a list of levels: SDO ends at the last, the bit index counts them, the record of the line
holds them. -/
theorem foldl_driveBit (l : List Bool) (s : State) :
    l.foldl driveBit s =
      { s with sdo := l.getLastD s.sdo, q := s.q + l.length, line := s.line ++ l } := by
  induction l generalizing s with
  | nil => simp
  | cons b l ih =>
    rw [List.foldl_cons, ih]
    simp only [driveBit, List.length_cons, List.append_assoc, List.singleton_append,
      List.getLastD_cons]
    rw [Nat.add_assoc, Nat.add_comm 1]

/-- Driving a byte. -/
theorem driveByte_eq (v : Byte) (s : State) :
    driveByte v s =
      { s with
        sdo := (wirePattern s.platform.wireMode v).getLastD s.sdo
        q := 0
        line := s.line ++ wirePattern s.platform.wireMode v } := by
  simp only [driveByte, foldl_driveBit]

theorem isCodeByte_iff (v : Byte) :
    isCodeByte v = true ↔ v = Config.symZero ∨ v = Config.symOne ∨ v = Config.padByte := by
  simp [isCodeByte, or_assoc]

/-- Every byte of the code book ends with a low period in every mode (R55). -/
theorem wirePattern_getLastD (m : WireMode) (v : Byte) (h : isCodeByte v = true) (b : Bool) :
    (wirePattern m v).getLastD b = false := by
  rcases (isCodeByte_iff v).1 h with rfl | rfl | rfl <;> cases m <;> rfl

@[simp] theorem wirePattern_length (m : WireMode) (v : Byte) :
    (wirePattern m v).length = periodsPerByte m := by
  cases m <;> simp [wirePattern, periodsPerByte]

/-! ### Emitting a byte -/

/-- The state after a byte of the code book went out, but for the chain. -/
def State.byteOut (v : Byte) (j : Job) (s : State) : State :=
  { s with
    sdo := false
    q := 0
    line := s.line ++ wirePattern s.platform.wireMode v
    pos := s.pos + 1
    wire := appendByte j.index v s.wire
    bus := .ok }

/-- A byte of the code book goes out. -/
theorem emit_eq (v : Byte) (j : Job) (s : State) (h : isCodeByte v = true) :
    s.emit v j =
      if s.busConflict then (s.byteOut v j).disturbChain
      else { s.byteOut v j with chain := s.chain.takeByte s.platform.chainLen v } := by
  simp only [State.emit, driveByte_eq, wirePattern_getLastD _ _ h, State.feedChain, State.byteOut]

/-- The state after a byte of the code book went out on a bus that saw no overlap. -/
def State.sent (v : Byte) (j : Job) (s : State) : State :=
  { s with
    sdo := false
    q := 0
    line := s.line ++ wirePattern s.platform.wireMode v
    pos := s.pos + 1
    wire := appendByte j.index v s.wire
    chain := s.chain.takeByte s.platform.chainLen v
    bus := .ok }

/-- A byte of the code book goes out on a bus that saw no overlap. -/
theorem emit_eq_sent (v : Byte) (j : Job) (s : State) (h : isCodeByte v = true)
    (hc : s.busConflict = false) : s.emit v j = s.sent v j := by
  rw [emit_eq v j s h, hc]; rfl

/-! ### Leaving the framer -/

/-- With nothing waiting the framer goes idle (R82, R105). -/
theorem releaseFramer_eq_idle (s : State) (h : s.parked = []) :
    s.releaseFramer = { s with busy := false, pos := 0, q := 0, sdo := false, job := none } := by
  simp [State.releaseFramer, h]

/-- With an overlapping operation waiting, that one goes on. -/
theorem releaseFramer_eq_next (s : State) (p : Parked) (ps : List Parked) (h : s.parked = p :: ps) :
    s.releaseFramer =
      { s with pos := p.pos, q := 0, sdo := false, job := some p.job, parked := ps } := by
  simp [State.releaseFramer, h]

/-- What leaving the framer does not touch. -/
theorem releaseFramer_frame (s : State) :
    s.releaseFramer.platform = s.platform ∧ s.releaseFramer.cfg = s.cfg ∧
    s.releaseFramer.opened = s.opened ∧ s.releaseFramer.busConflict = s.busConflict ∧
    s.releaseFramer.status = s.status ∧ s.releaseFramer.port = s.port ∧
    s.releaseFramer.res = s.res ∧ s.releaseFramer.wire = s.wire ∧ s.releaseFramer.line = s.line ∧
    s.releaseFramer.chain = s.chain ∧ s.releaseFramer.programs = s.programs ∧
    s.releaseFramer.turns = s.turns ∧ s.releaseFramer.bus = s.bus ∧
    s.releaseFramer.draws = s.draws := by
  unfold State.releaseFramer
  split <;> exact ⟨rfl, rfl, rfl, rfl, rfl, rfl, rfl, rfl, rfl, rfl, rfl, rfl, rfl, rfl⟩

/-! ### Starting and ending a bus operation -/

theorem startTransaction_eq_begin (p : Payload) (cl : Bool) (s : State) (h : s.busy = false) :
    s.startTransaction p cl = s.beginTransaction p cl := by
  simp [State.startTransaction, h]

theorem startTransaction_eq_overlap (p : Payload) (cl : Bool) (s : State) (h : s.busy = true) :
    s.startTransaction p cl = s.overlapTransaction p cl := by
  simp [State.startTransaction, h]

/-- Completion on a bus that saw no overlap (R87). -/
theorem completeTransaction_eq (j : Job) (s : State) (hc : s.busConflict = false)
    (hp : s.parked = []) :
    s.completeTransaction j =
      { s with
        wire := setMark j.index .complete s.wire
        opened := s.opened && !j.closing
        status := some .ok
        bus := .ok
        chain := s.chain.latch s.platform.chainLen s.draws
        draws := s.draws + 1
        port := none
        res := some ⟨j.requester, .status .ok⟩
        busy := false
        pos := 0
        q := 0
        sdo := false
        job := none } := by
  simp [State.completeTransaction, State.completionStatus, State.latchChain, State.releaseFramer,
    State.markEnd, hc, hp]

/-- Failure with nothing waiting (R88, R105). -/
theorem failTransaction_eq (j : Job) (c : Nat) (s : State) (hp : s.parked = []) :
    s.failTransaction j c =
      { s with
        wire := setMark j.index .failed s.wire
        opened := s.opened && !j.closing
        status := some (.transferError c)
        bus := .ok
        chain := Chain.unspecified s.draws s.platform.chainLen
        draws := s.draws + 1
        port := none
        res := some ⟨j.requester, .status (.transferError c)⟩
        busy := false
        pos := 0
        q := 0
        sdo := false
        job := none } := by
  simp [State.failTransaction, State.raiseFault, State.disturbChain, State.releaseFramer,
    State.markEnd, hp]

/-- What a step of the framer's loop can do (R82). -/
theorem sendByte_next {v : Byte} {s t : State} (h : s.sendByte v = .next t) :
    ∃ j, Sending s j ∧
      ((s.bus = .ok ∧ t = (s.emit v j).afterByte j) ∨
        (∃ c, s.bus = .failBefore c ∧ t = s.failTransaction j c) ∨
        ∃ c, s.bus = .failAfter c ∧ t = (s.emit v j).failTransaction j c) := by
  unfold State.sendByte at h
  split at h
  · next j hb hj =>
    refine ⟨j, ⟨hb, hj⟩, ?_⟩
    split at h <;> next he => cases h; simp [he]
  · cases h

/-- A step of the framer's loop, when the framer performs an operation. -/
theorem sendByte_eq {s : State} {j : Job} (v : Byte) (h : Sending s j) :
    s.sendByte v =
      match s.bus with
      | .ok => .next ((s.emit v j).afterByte j)
      | .failBefore c => .next (s.failTransaction j c)
      | .failAfter c => .next ((s.emit v j).failTransaction j c) := by
  cases hb : s.bus <;> simp [State.sendByte, h.1, h.2, hb]

/-! ### Who has the line -/

/-- With nothing waiting the operation that has the line keeps it. -/
theorem selectJob_of_not_waiting (pick : Nat) {s : State} (h : s.parked = []) :
    s.selectJob pick = s := by
  unfold State.selectJob
  split
  · next hp => simp [h] at hp
  · rfl

/-! ### Records -/

@[simp] theorem appendByte_length (i : Nat) (v : Byte) (w : List Record) :
    (appendByte i v w).length = w.length := by simp [appendByte]

@[simp] theorem setMark_length (i : Nat) (m : Mark) (w : List Record) :
    (setMark i m w).length = w.length := by simp [setMark]

theorem appendByte_getElem?_self (i : Nat) (v : Byte) (w : List Record) :
    (appendByte i v w)[i]? = w[i]?.map fun r => { r with bytes := r.bytes ++ [v] } := by
  simp [appendByte]

theorem appendByte_getElem?_ne {i n : Nat} (v : Byte) (w : List Record) (h : n ≠ i) :
    (appendByte i v w)[n]? = w[n]? := by
  simp [appendByte, Ne.symm h]

theorem setMark_getElem?_self (i : Nat) (m : Mark) (w : List Record) :
    (setMark i m w)[i]? = w[i]?.map fun r => { r with mark := m } := by
  simp [setMark]

theorem setMark_getElem?_ne {i n : Nat} (m : Mark) (w : List Record) (h : n ≠ i) :
    (setMark i m w)[n]? = w[n]? := by
  simp [setMark, Ne.symm h]

theorem modify_last (w : List Record) (r : Record) (f : Record → Record) :
    (w ++ [r]).modify w.length f = w ++ [f r] := by
  induction w with
  | nil => rfl
  | cons x w ih => simp [ih]

/-- Appending a byte to the last record. -/
theorem appendByte_last (v : Byte) (w : List Record) (r : Record) :
    appendByte w.length v (w ++ [r]) = w ++ [{ r with bytes := r.bytes ++ [v] }] := modify_last w r _

/-- Marking the last record. -/
theorem setMark_last (m : Mark) (w : List Record) (r : Record) :
    setMark w.length m (w ++ [r]) = w ++ [{ r with mark := m }] := modify_last w r _

/-! ### The chain keeps its sizes -/

@[simp] theorem unspecified_k (d n : Nat) : (Chain.unspecified d n).k = none := rfl

@[simp] theorem unspecified_shadow_length (d n : Nat) :
    (Chain.unspecified d n).shadow.length = 24 * n := by simp [Chain.unspecified]

@[simp] theorem unspecified_display_length (d n : Nat) :
    (Chain.unspecified d n).display.length = n := by simp [Chain.unspecified]

@[simp] theorem takeBit_shadow_length (n : Nat) (d : Bool) (c : Chain) :
    (c.takeBit n d).shadow.length = c.shadow.length := by
  unfold Chain.takeBit
  split
  · rfl
  · simp only []; split <;> simp

@[simp] theorem takeBit_display (n : Nat) (d : Bool) (c : Chain) :
    (c.takeBit n d).display = c.display := by
  unfold Chain.takeBit
  split <;> rfl

@[simp] theorem takeByte_shadow_length (n : Nat) (v : Byte) (c : Chain) :
    (c.takeByte n v).shadow.length = c.shadow.length := by
  unfold Chain.takeByte
  split
  · simp
  · split <;> simp

@[simp] theorem takeByte_display (n : Nat) (v : Byte) (c : Chain) :
    (c.takeByte n v).display = c.display := by
  unfold Chain.takeByte
  split
  · simp
  · split <;> simp

@[simp] theorem latch_k (n d : Nat) (c : Chain) : (c.latch n d).k = some 0 := by
  unfold Chain.latch
  split <;> rfl

@[simp] theorem latch_shadow (n d : Nat) (c : Chain) : (c.latch n d).shadow = c.shadow := by
  unfold Chain.latch
  split <;> rfl

theorem latch_display_length (n d : Nat) (c : Chain) (h : c.display.length = n) :
    (c.latch n d).display.length = n := by
  unfold Chain.latch
  split <;> simp [h]

end Sys2Proof.Machine
end

