-- ==== Sys2Proof/Laws/Encoder.lean ====
section
/-! SUPPORT. The encoder's lengths (R78), the shape of what it produces (R53, R54), and what the chain
makes of it. All of it holds for every scaling function (R80). -/

namespace Sys2Proof.Machine

@[simp] theorem chanBits_length (v : Chan) : (chanBits v).length = 8 := by simp [chanBits]

@[simp] theorem encodeByte_length (v : Chan) : (encodeByte v).length = 8 := by simp [encodeByte]

@[simp] theorem fragmentOf_length (c : Grb) : (fragmentOf c).length = 24 := by simp [fragmentOf]

@[simp] theorem encodeLed_length (sc : ScaleFn) (b : Ratio) (t : Rgb) :
    (encodeLed sc b t).length = 24 := by simp [encodeLed]

@[simp] theorem pad_length : pad.length = 64 := by simp [pad, Config.resetPadding]

/-- The data bits of a color in transmission order, in the order they are sent. -/
def grbBits (c : Grb) : List Bool := chanBits c.g ++ chanBits c.r ++ chanBits c.b

@[simp] theorem grbBits_length (c : Grb) : (grbBits c).length = 24 := by simp [grbBits]

theorem fragmentOf_eq (c : Grb) : fragmentOf c = (grbBits c).map symbol := by
  simp [fragmentOf, grbBits, encodeByte]

/-- The data part of a payload is the symbols of the shown colors' bits. -/
theorem flatMap_encodeLed (sc : ScaleFn) (b : Ratio) (f : Frame) :
    f.flatMap (encodeLed sc b) = (f.flatMap fun t => grbBits (shownColor sc b t)).map symbol := by
  rw [List.map_flatMap]
  exact congrArg (List.flatMap · f) (funext fun t => fragmentOf_eq _)

theorem flatMap_grbBits_length (sc : ScaleFn) (b : Ratio) (f : Frame) :
    (f.flatMap fun t => grbBits (shownColor sc b t)).length = 24 * f.length := by
  induction f with
  | nil => rfl
  | cons t f ih => simp [List.flatMap_cons, ih]; omega

theorem flatMap_encodeLed_length (sc : ScaleFn) (b : Ratio) (f : Frame) :
    (f.flatMap (encodeLed sc b)).length = 24 * f.length := by
  rw [flatMap_encodeLed, List.length_map, flatMap_grbBits_length]

theorem isSymbol_symbol (d : Bool) : isSymbol (symbol d) = true := by cases d <;> decide

theorem isSymbol_iff (v : Byte) : isSymbol v = true ↔ ∃ d, v = symbol d := by
  constructor
  · intro h
    simp only [isSymbol, Bool.or_eq_true, beq_iff_eq] at h
    exact h.elim (fun h => ⟨false, h⟩) fun h => ⟨true, h⟩
  · rintro ⟨d, rfl⟩; exact isSymbol_symbol d

/-- What ENCODE_FRAME builds is a well-formed payload (R83, R90), for every scaling. -/
theorem encodeFrame_wellFormed (sc : ScaleFn) (b : Ratio) (f : Frame) :
    payloadWellFormed f.length (encodeFrame sc b f) = true := by
  have hl := flatMap_encodeLed_length sc b f
  simp only [payloadWellFormed, encodeFrame, Bool.and_eq_true, beq_iff_eq, payloadLength,
    Config.bytesPerLed]
  refine ⟨⟨by simp [hl, Config.resetPadding], ?_⟩, ?_⟩
  · rw [List.take_left' hl, flatMap_encodeLed]
    simp [isSymbol_symbol]
  · rw [List.drop_left' hl]
    simp [pad]

theorem payloadWellFormed_length {n : Nat} {p : Payload} (h : payloadWellFormed n p = true) :
    p.length = 24 * n + 64 := by
  simp only [payloadWellFormed, Bool.and_eq_true, beq_iff_eq] at h
  exact h.1.1

/-- A well-formed payload is the symbols of its data bits, then the reset block. -/
theorem payloadWellFormed_split {n : Nat} {p : Payload} (h : payloadWellFormed n p = true) :
    ∃ bits : List Bool, bits.length = 24 * n ∧ p = bits.map symbol ++ pad := by
  have hl := payloadWellFormed_length h
  simp only [payloadWellFormed, Bool.and_eq_true, List.all_eq_true, beq_iff_eq] at h
  obtain ⟨⟨-, hd⟩, hp⟩ := h
  have hsym : ∀ l : List Byte, (∀ v ∈ l, isSymbol v = true) →
      ∃ bits : List Bool, bits.length = l.length ∧ l = bits.map symbol := by
    intro l
    induction l with
    | nil => intro _; exact ⟨[], rfl, rfl⟩
    | cons v l ih =>
      intro hv
      obtain ⟨d, rfl⟩ := (isSymbol_iff v).1 (hv v (by simp))
      obtain ⟨bits, hb, hm⟩ := ih fun w hw => hv w (by simp [hw])
      exact ⟨d :: bits, by simp [hb], by rw [List.map_cons, ← hm]⟩
  obtain ⟨bits, hb, hm⟩ := hsym _ hd
  refine ⟨bits, by rw [hb, List.length_take, hl]; omega, ?_⟩
  rw [← hm]
  have hpad : p.drop (24 * n) = pad := by
    refine List.eq_replicate_iff.2 ⟨?_, hp⟩
    rw [List.length_drop, hl, Config.resetPadding]; omega
  rw [← hpad, List.take_append_drop]

theorem payloadWellFormed_mem {n : Nat} {p : Payload} (h : payloadWellFormed n p = true) {v : Byte}
    (hv : v ∈ p) : isCodeByte v = true := by
  obtain ⟨bits, -, rfl⟩ := payloadWellFormed_split h
  rcases List.mem_append.1 hv with hv | hv
  · obtain ⟨d, -, rfl⟩ := List.mem_map.1 hv
    cases d <;> decide
  · rw [pad, List.mem_replicate] at hv
    rw [hv.2]; decide

/-- The byte the framer finds in a well-formed payload is one of the three of the code book. -/
theorem decodeByte_of_isCodeByte {v : Byte} (h : isCodeByte v = true) :
    (v = Config.symZero ∧ decodeByte v = .ok .symZero) ∨
    (v = Config.symOne ∧ decodeByte v = .ok .symOne) ∨
    (v = Config.padByte ∧ decodeByte v = .ok .padByte) := by
  rcases (isCodeByte_iff v).1 h with rfl | rfl | rfl
  · exact .inl ⟨rfl, rfl⟩
  · exact .inr (.inl ⟨rfl, rfl⟩)
  · exact .inr (.inr ⟨rfl, rfl⟩)

/-! ### Symbols and the chain -/

theorem takeByte_symbol (n : Nat) (d : Bool) (c : Chain) :
    c.takeByte n (symbol d) = c.takeBit n d := by cases d <;> rfl

theorem takeByte_pad (n : Nat) (c : Chain) : c.takeByte n Config.padByte = c := rfl

theorem foldl_takeByte_pad (n m : Nat) (c : Chain) :
    (List.replicate m Config.padByte).foldl (fun c v => c.takeByte n v) c = c := by
  induction m generalizing c with
  | zero => rfl
  | succ m ih => rw [List.replicate_succ, List.foldl_cons, takeByte_pad, ih]

/-- The chain after the bytes of a well-formed payload is the chain after its data bits. -/
theorem foldl_takeByte_payload (n : Nat) (bits : List Bool) (c : Chain) :
    (bits.map symbol ++ pad).foldl (fun c v => c.takeByte n v) c =
      bits.foldl (fun c d => c.takeBit n d) c := by
  rw [List.foldl_append, pad, foldl_takeByte_pad, List.foldl_map]
  simp only [takeByte_symbol]

theorem chanOfBits_chanBits (v : Chan) : chanOfBits (chanBits v) = v := by
  revert v; decide +revert

end Sys2Proof.Machine
end

