-- ==== Sys2Proof/Laws/Step.lean ====
section
/-! SUPPORT. What a step can do, said once: the effects of instructions and of the environment's moves,
and the states they start from. -/

namespace Sys2Proof.Machine

/-- The effects a step can have on the state it runs in. -/
inductive Effect (s : State) : State → Prop where
  /-- an encoder operation answers -/
  | answer (r : Result) (h : ∀ st, r ≠ .status st) : Effect s (s.respond r)
  /-- INIT succeeds -/
  | configure (n : Nat) (b : Ratio) (d : DeviceName) (v : Ratio) (hd : s.initDone = false)
      (hb : b.isBrightness = true) (hv : v.isRate = true) :
      Effect s (State.respond
        { s with
          cfg := some ⟨n, b, d, v⟩
          opened := true
          busy := false
          pos := 0
          sdo := false } (.status .ok))
  /-- INIT fails -/
  | startupError (d : Option DeviceName) (hd : s.initDone = false) :
      Effect s (s.raiseFault s.caller (.startupError d))
  /-- TRANSFER, SHOW or SHUTDOWN is accepted -/
  | start (c : CfgRegs) (p : Payload) (cl : Bool) (hc : s.operative = some c)
      (hp : payloadWellFormed c.ledCount p = true)
      (hq : ∃ q, s.port = some q ∧ (q.op = 0b011#3 ∨ q.op = 0b100#3 ∨ q.op = 0b101#3)) :
      Effect s (s.startTransaction p cl)
  /-- the byte at `pos`, one of the code book, goes out -/
  | byte (v : Byte) (j : Job) (hv : isCodeByte v = true) (hj : Sending s j)
      (hp : j.payload[s.pos]? = some v) : Effect s ((s.emit v j).afterByte j)
  /-- the bus fails before the byte -/
  | failBefore (j : Job) (c : Nat) (hj : Sending s j) : Effect s (s.failTransaction j c)
  /-- the bus fails after the byte -/
  | failAfter (v : Byte) (j : Job) (c : Nat) (hv : isCodeByte v = true) (hj : Sending s j)
      (hp : j.payload[s.pos]? = some v) : Effect s ((s.emit v j).failTransaction j c)
  /-- a transaction whose bytes are all out is complete -/
  | complete (j : Job) (hj : s.job = some j) (h : j.payload.length ≤ s.pos) :
      Effect s (s.completeTransaction j)
  /-- a requester places a request -/
  | issue (n : Nat) : Effect s (s.issue n)
  /-- nothing happens -/
  | quiet : Effect s s

/-- A request decodes to an instruction that its selector encodes. -/
theorem encode_of_decodeRequest {op : Selector} {o : Operand} {i : Instr}
    (h : decodeRequest op o = .ok i) : ∃ o', encode i = .request op o' := by
  have hinit : ∀ c i, initOfRaw? c = some i → ∃ o', encode i = .request 0b000#3 o' := by
    intro c i h
    unfold initOfRaw? at h
    split at h <;> cases h
    exact ⟨_, rfl⟩
  unfold decodeRequest at h
  repeat' split at h
  all_goals first
    | (cases h; done)
    | (injection h with h; subst h; subst_vars; exact hinit _ _ ‹_›)
    | (injection h with h; subst h; subst_vars; exact ⟨_, rfl⟩)

/-- A payload byte decodes to the instruction that it encodes. -/
theorem encode_of_decodeByte {v : Byte} {i : Instr} (h : decodeByte v = .ok i) :
    encode i = .payloadByte v := by
  unfold decodeByte at h
  repeat' split at h
  all_goals cases h <;> subst_vars <;> rfl

/-- Everything an instruction can do that is the request on the port, or the byte at `pos`. -/
theorem exec_effect {i : Instr} {s t : State}
    (hr : ∀ op o, encode i = .request op o → ∃ q, s.port = some q ∧ q.op = op)
    (hi : ∀ v, encode i = .payloadByte v → ∀ j, Sending s j → j.payload[s.pos]? = some v)
    (h : exec i s = .next t) : Effect s t := by
  have hsend : ∀ v, encode i = .payloadByte v → isCodeByte v = true → s.sendByte v = .next t →
      Effect s t := by
    intro v he hv h
    obtain ⟨j, hj, ⟨-, rfl⟩ | ⟨c, -, rfl⟩ | ⟨c, -, rfl⟩⟩ := sendByte_next h
    · exact .byte v j hv hj (hi v he j hj)
    · exact .failBefore j c hj
    · exact .failAfter v j c hv hj (hi v he j hj)
  have busOp : (∃ o, encode i = .request 0b011#3 o) ∨ (∃ o, encode i = .request 0b100#3 o) ∨
      (∃ o, encode i = .request 0b101#3 o) →
      ∃ q, s.port = some q ∧ (q.op = 0b011#3 ∨ q.op = 0b100#3 ∨ q.op = 0b101#3) := by
    rintro (⟨o, h⟩ | ⟨o, h⟩ | ⟨o, h⟩) <;> obtain ⟨q, hq, ho⟩ := hr _ _ h <;>
      exact ⟨q, hq, by simp [ho]⟩
  cases i with
  | init n b d v =>
    simp only [exec, execInit] at h
    split at h
    · cases h
    · next hd =>
      split at h
      · cases h
      · next hb =>
        split at h <;> cases h
        · exact .startupError d (by simpa using hd)
        · obtain ⟨hb, hv⟩ : b.isBrightness = true ∧ v.isRate = true := by simpa using hb
          exact .configure n b _ v (by simpa using hd) hb hv
  | encodeLed t' =>
    simp only [exec, execEncodeLed] at h
    split at h <;> cases h
    exact .answer _ (by simp)
  | encodeFrame f =>
    simp only [exec, execEncodeFrame] at h
    split at h
    · cases h
    · split at h <;> cases h
      exact .answer _ (by simp)
  | transfer p =>
    simp only [exec, execTransfer] at h
    split at h
    · cases h
    · next c hc =>
      split at h
      · next hp => cases h; exact .start c p false hc hp (busOp (.inl ⟨_, rfl⟩))
      · cases h
  | showFrame f =>
    simp only [exec, execShow] at h
    split at h
    · cases h
    · next c hc =>
      split at h
      · next hl =>
        cases h
        exact .start c _ false hc (hl ▸ encodeFrame_wellFormed scale c.brightness f)
          (busOp (.inr (.inl ⟨_, rfl⟩)))
      · cases h
  | shutdown =>
    simp only [exec, execShutdown] at h
    split at h
    · cases h
    · next c hc =>
      cases h
      refine .start c _ true hc ?_ (busOp (.inr (.inr ⟨_, rfl⟩)))
      have := encodeFrame_wellFormed scale c.brightness (blackFrame c.ledCount)
      rwa [blackFrame, List.length_replicate] at this
  | symZero => exact hsend _ rfl (by decide) h
  | symOne => exact hsend _ rfl (by decide) h
  | padByte => exact hsend _ rfl (by decide) h

/-- The states an effect can start from: the step's own state with what the last step delivered gone,
the turn taken off, the bus's answer laid down, and perhaps an overlapping operation on the line. -/
inductive Prepared (s : State) : State → Prop where
  | request (p : Port) (h : s.port = some p) : Prepared s s.tick
  | turn (t : Turn) (ts : List Turn) (h : s.port = none) (ht : s.turns = t :: ts) :
      Prepared s { s.tick with turns := ts }
  | busTurn (pick : Nat) (ev : BusEvent) (ts : List Turn) (h : s.port = none)
      (ht : s.turns = .bus pick ev :: ts) (hb : s.busy = true) :
      Prepared s { State.selectJob pick { s.tick with turns := ts } with bus := ev }
  | framer (h : s.port = none) (ht : s.turns = []) (hb : s.busy = true) :
      Prepared s { s.tick with bus := .ok }
  | idle (h : s.port = none) (ht : s.turns = []) (hb : s.busy = false) : Prepared s s.tick

/-- What fetching a byte leads to. -/
theorem fetchByte_effect {s t : State} (h : runFetched (fetchByte s) = .next t) : Effect s t := by
  unfold fetchByte at h
  cases hj : s.job with
  | none => rw [hj] at h; cases h
  | some j =>
    cases hn : j.payload[s.pos]? with
    | none =>
      simp only [hj, hn, runFetched, Host.Outcome.next.injEq] at h
      exact h ▸ .complete j hj (by simpa using hn)
    | some v =>
      cases hv : decodeByte v with
      | ok i =>
        simp only [hj, hn, hv, runFetched] at h
        refine exec_effect (fun op o ho => by rw [encode_of_decodeByte hv] at ho; cases ho)
          (fun w hw j' hj' => ?_) h
        rw [encode_of_decodeByte hv] at hw
        cases hw
        have := hj'.2
        rw [hj] at this
        cases this
        exact hn
      | error e => simp [hj, hn, hv, runFetched] at h

theorem fetchDefault_busy {s : State} (h : s.busy = true) :
    fetchDefault s = fetchByte { s with bus := .ok } := if_pos h

theorem fetchDefault_idle {s : State} (h : s.busy = false) :
    fetchDefault s = match s.firstReady with
      | some n => .quiet (s.issue n)
      | none => .quiet s := if_neg (by simp [h])

theorem fetchTurn_bus_busy {s : State} (pick : Nat) (ev : BusEvent) (h : s.busy = true) :
    fetchTurn (.bus pick ev) s = fetchByte { s.selectJob pick with bus := ev } := if_pos h

theorem fetchTurn_bus_idle {s : State} (pick : Nat) (ev : BusEvent) (h : s.busy = false) :
    fetchTurn (.bus pick ev) s = .quiet s := if_neg (by simp [h])

/-- EVERYTHING A STEP CAN DO: one of the effects, from one of the prepared states. -/
theorem step_effect {s t : State} (h : step s = .next t) : ∃ s', Prepared s s' ∧ Effect s' t := by
  unfold step fetch at h
  cases hp : s.port with
  | some p =>
    refine ⟨_, .request p hp, ?_⟩
    cases hd : decodeRequest p.op p.opnd with
    | ok i =>
      simp only [hp, fetchRequest, hd, runFetched] at h
      obtain ⟨o', ho'⟩ := encode_of_decodeRequest hd
      exact exec_effect (fun op o ho => ⟨p, hp, by rw [ho'] at ho; cases ho; rfl⟩)
        (fun v hv => by rw [ho'] at hv; cases hv) h
    | error e => simp [hp, fetchRequest, hd, runFetched] at h
  | none =>
    simp only [hp] at h
    cases ht : s.turns with
    | cons u ts =>
      simp only [ht] at h
      cases u with
      | issue n =>
        cases h
        exact ⟨_, .turn _ ts hp ht, .issue n⟩
      | bus pick ev =>
        cases hb : s.busy with
        | true =>
          rw [fetchTurn_bus_busy (s := { s.tick with turns := ts }) pick ev hb] at h
          exact ⟨_, .busTurn pick ev ts hp ht hb, fetchByte_effect h⟩
        | false =>
          rw [fetchTurn_bus_idle (s := { s.tick with turns := ts }) pick ev hb] at h
          cases h
          exact ⟨_, .turn _ ts hp ht, .quiet⟩
    | nil =>
      simp only [ht] at h
      cases hb : s.busy with
      | true =>
        rw [fetchDefault_busy (s := s.tick) hb] at h
        exact ⟨_, .framer hp ht hb, fetchByte_effect h⟩
      | false =>
        rw [fetchDefault_idle (s := s.tick) hb] at h
        refine ⟨_, .idle hp ht hb, ?_⟩
        cases hn : s.tick.firstReady <;> rw [hn] at h <;> cases h
        · exact .quiet
        · exact .issue _

/-! ### Steps that run an instruction -/

/-- A run goes on from the next state. -/
theorem run_succ {s t : State} (k : Nat) (h : step s = .next t) :
    Host.Core.run core (k + 1) s = Host.Core.run core k t := by
  have h' : core.step s = .next t := h
  simp only [Host.Core.run, h']

/-- What every step keeps a run keeps. -/
theorem run_induction {P : State → Prop} (keeps : ∀ s t, P s → step s = .next t → P t) {k : Nat}
    {s u : State} (h : P s) (hr : Host.Core.run core k s = .next u) : P u := by
  induction k generalizing s with
  | zero => cases hr; exact h
  | succ k ih =>
    cases hs : step s with
    | next t => rw [run_succ k hs] at hr; exact ih (keeps s t h hs) hr
    | fault r =>
      have h' : core.step s = .fault r := hs
      simp only [Host.Core.run, h'] at hr
      cases hr
    | refused r =>
      have h' : core.step s = .refused r := hs
      simp only [Host.Core.run, h'] at hr
      cases hr

/-- A requester's turn is taken, and it places its request if it can. -/
theorem step_of_issue {s : State} {n : Nat} {ts : List Turn} (hp : s.port = none)
    (ht : s.turns = .issue n :: ts) :
    step s = .next (State.issue n { s.tick with turns := ts }) := by
  simp [step, fetch, hp, ht, fetchTurn, runFetched]

/-- A request on the port is run. -/
theorem step_of_port {s : State} {p : Port} {i : Instr} (hp : s.port = some p)
    (hd : decodeRequest p.op p.opnd = .ok i) : step s = exec i s.tick := by
  simp [step, fetch, hp, fetchRequest, hd, runFetched]

/-- The byte at `pos` is what a framer fetches that holds an operation. -/
theorem fetchByte_eq {s : State} {j : Job} {v : Byte} {i : Instr} (hj : s.job = some j)
    (hv : j.payload[s.pos]? = some v) (hd : decodeByte v = .ok i) : fetchByte s = .run i s := by
  simp [fetchByte, hj, hv, hd]

/-- While the framer goes on the byte at `pos` is run, its turn, if one is laid down, is taken, and the bus does
not fail. -/
theorem step_of_byte {s : State} {j : Job} {v : Byte} {i : Instr} (hu : Undisturbed s)
    (hw : s.parked = []) (hj : Sending s j) (hv : j.payload[s.pos]? = some v)
    (hd : decodeByte v = .ok i) :
    step s = exec i { s.tick with turns := s.turns.tail, bus := .ok } := by
  obtain ⟨hp, hg⟩ := hu
  cases ht : s.turns with
  | nil =>
    have hf : fetch s = .run i { s.tick with bus := .ok } := by
      simp only [fetch, hp, ht]
      rw [fetchDefault_busy (s := s.tick) hj.1]
      exact fetchByte_eq hj.2 hv hd
    have he : ({ s.tick with turns := [].tail, bus := .ok } : State) = { s.tick with bus := .ok } := by
      simp [State.tick, ht]
    rw [step, hf, he]
    rfl
  | cons u us =>
    obtain ⟨pick, rfl⟩ := hg u (by simp [ht])
    have hf : fetch s = .run i { s.tick with turns := us, bus := .ok } := by
      simp only [fetch, hp, ht]
      rw [fetchTurn_bus_busy (s := { s.tick with turns := us }) pick .ok hj.1,
        selectJob_of_not_waiting pick (s := { s.tick with turns := us }) hw]
      exact fetchByte_eq hj.2 hv hd
    rw [step, hf]
    rfl

end Sys2Proof.Machine
end

