-- ==== Sys2Proof/Laws/Frames.lean ====
section
/-! SUPPORT. What each shared operation leaves unchanged, once each, for the operations whose definition
branches (those that do not have their lemmas in Laws/State.lean). -/

namespace Sys2Proof.Machine

/-- The fields no step of the framer touches, and WIRE. -/
structure Keeps (s t : State) : Prop where
  platform : t.platform = s.platform
  cfg : t.cfg = s.cfg
  busConflict : t.busConflict = s.busConflict
  programs : t.programs = s.programs
  turns : t.turns = s.turns

theorem Keeps.refl (s : State) : Keeps s s := ⟨rfl, rfl, rfl, rfl, rfl⟩

theorem Keeps.trans {s t u : State} (h : Keeps s t) (h' : Keeps t u) : Keeps s u :=
  ⟨h'.1.trans h.1, h'.2.trans h.2, h'.3.trans h.3, h'.4.trans h.4, h'.5.trans h.5⟩

theorem selectJob_frame (pick : Nat) (s : State) :
    Keeps s (s.selectJob pick) ∧ (s.selectJob pick).opened = s.opened ∧
      (s.selectJob pick).busy = s.busy ∧ (s.selectJob pick).q = s.q ∧
      (s.selectJob pick).sdo = s.sdo ∧ (s.selectJob pick).status = s.status ∧
      (s.selectJob pick).res = s.res ∧ (s.selectJob pick).wire = s.wire ∧
      (s.selectJob pick).chain = s.chain := by
  unfold State.selectJob
  split <;> exact ⟨⟨rfl, rfl, rfl, rfl, rfl⟩, rfl, rfl, rfl, rfl, rfl, rfl, rfl, rfl⟩

/-- The line's new owner is the old one or one of those that waited. -/
theorem selectJob_job {pick : Nat} {s : State} {j : Job} (h : (s.selectJob pick).job = some j) :
    s.job = some j ∨ ∃ p ∈ s.parked, p.job = j := by
  unfold State.selectJob at h
  split at h
  · next p _ hp => cases h; exact .inr ⟨p, List.mem_of_getElem? hp, rfl⟩
  · exact .inl h

theorem feedChain_frame (v : Byte) (s : State) :
    Keeps s (s.feedChain v) ∧ (s.feedChain v).opened = s.opened ∧ (s.feedChain v).busy = s.busy ∧
      (s.feedChain v).pos = s.pos ∧ (s.feedChain v).job = s.job ∧ (s.feedChain v).wire = s.wire ∧
      (s.feedChain v).status = s.status ∧ (s.feedChain v).res = s.res ∧
      (s.feedChain v).parked = s.parked := by
  unfold State.feedChain
  split <;> exact ⟨⟨rfl, rfl, rfl, rfl, rfl⟩, rfl, rfl, rfl, rfl, rfl, rfl, rfl, rfl⟩

theorem emit_frame (v : Byte) (j : Job) (s : State) :
    Keeps s (s.emit v j) ∧ (s.emit v j).opened = s.opened ∧ (s.emit v j).busy = s.busy ∧
      (s.emit v j).pos = s.pos + 1 ∧ (s.emit v j).job = s.job ∧
      (s.emit v j).wire = appendByte j.index v s.wire ∧ (s.emit v j).status = s.status ∧
      (s.emit v j).res = s.res ∧ (s.emit v j).parked = s.parked := by
  have h := feedChain_frame v
    { driveByte v s with pos := s.pos + 1, wire := appendByte j.index v s.wire, bus := .ok }
  simp only [State.emit, driveByte_eq] at *
  obtain ⟨⟨h1, h2, h3, h4, h5⟩, h⟩ := h
  exact ⟨⟨h1, h2, h3, h4, h5⟩, h⟩

theorem latchChain_frame (s : State) :
    Keeps s s.latchChain ∧ s.latchChain.opened = s.opened ∧ s.latchChain.busy = s.busy ∧
      s.latchChain.pos = s.pos ∧ s.latchChain.job = s.job ∧ s.latchChain.wire = s.wire ∧
      s.latchChain.status = s.status ∧ s.latchChain.parked = s.parked := by
  unfold State.latchChain
  split <;> exact ⟨⟨rfl, rfl, rfl, rfl, rfl⟩, rfl, rfl, rfl, rfl, rfl, rfl, rfl⟩

theorem releaseFramer_keeps (s : State) :
    Keeps s s.releaseFramer ∧ s.releaseFramer.opened = s.opened ∧ s.releaseFramer.wire = s.wire ∧
      s.releaseFramer.status = s.status ∧ s.releaseFramer.res = s.res ∧
      s.releaseFramer.port = s.port ∧ s.releaseFramer.chain = s.chain ∧
      s.releaseFramer.sdo = false ∧ s.releaseFramer.q = 0 := by
  unfold State.releaseFramer
  split <;> exact ⟨⟨rfl, rfl, rfl, rfl, rfl⟩, rfl, rfl, rfl, rfl, rfl, rfl, rfl, rfl⟩

theorem raiseFault_frame (n : Nat) (st : Status) (s : State) :
    Keeps s (s.raiseFault n st) ∧ (s.raiseFault n st).opened = s.opened ∧
      (s.raiseFault n st).wire = s.wire ∧ (s.raiseFault n st).status = s.status ∧
      (s.raiseFault n st).res = some ⟨n, .status st⟩ ∧ (s.raiseFault n st).port = none ∧
      (s.raiseFault n st).chain = s.chain := by
  obtain ⟨hk, h1, h2, h3, h4, h5, h6, -⟩ :=
    releaseFramer_keeps { s with port := none, res := some ⟨n, .status st⟩ }
  exact ⟨⟨hk.1, hk.2, hk.3, hk.4, hk.5⟩, h1, h2, h3, h4, h5, h6⟩

theorem completeTransaction_frame (j : Job) (s : State) :
    Keeps s (s.completeTransaction j) ∧
      (s.completeTransaction j).opened = (s.opened && !j.closing) ∧
      (s.completeTransaction j).wire = setMark j.index .complete s.wire ∧
      (s.completeTransaction j).status = some s.completionStatus ∧
      (s.completeTransaction j).res = some ⟨j.requester, .status s.completionStatus⟩ := by
  obtain ⟨hl, o1, -, -, -, o2, o3, -⟩ := latchChain_frame (s.markEnd j .complete s.completionStatus)
  obtain ⟨hk, h1, h2, h3, h4, -⟩ := releaseFramer_keeps
    { (s.markEnd j .complete s.completionStatus).latchChain with
      port := none, res := some ⟨j.requester, .status s.completionStatus⟩ }
  exact ⟨⟨hk.1.trans hl.1, hk.2.trans hl.2, hk.3.trans hl.3, hk.4.trans hl.4, hk.5.trans hl.5⟩,
    h1.trans o1, h2.trans o2, h3.trans o3, h4⟩

theorem failTransaction_frame (j : Job) (c : Nat) (s : State) :
    Keeps s (s.failTransaction j c) ∧ (s.failTransaction j c).opened = (s.opened && !j.closing) ∧
      (s.failTransaction j c).wire = setMark j.index .failed s.wire ∧
      (s.failTransaction j c).status = some (.transferError c) ∧
      (s.failTransaction j c).res = some ⟨j.requester, .status (.transferError c)⟩ := by
  obtain ⟨hk, h1, h2, h3, h4, -⟩ := raiseFault_frame j.requester (.transferError c)
    (s.markEnd j .failed (.transferError c)).disturbChain
  exact ⟨⟨hk.1, hk.2, hk.3, hk.4, hk.5⟩, h1, h2, h3, h4⟩

theorem afterByte_cases (j : Job) (s : State) :
    (s.pos < j.payload.length ∧ s.afterByte j = s) ∨
      (j.payload.length ≤ s.pos ∧ s.afterByte j = s.completeTransaction j) := by
  unfold State.afterByte
  split
  · exact .inr ⟨‹_›, rfl⟩
  · exact .inl ⟨by omega, rfl⟩

theorem startTransaction_frame (p : Payload) (cl : Bool) (s : State) :
    (s.startTransaction p cl).platform = s.platform ∧ (s.startTransaction p cl).cfg = s.cfg ∧
      (s.startTransaction p cl).opened = s.opened ∧ (s.startTransaction p cl).busy = true ∧
      (s.startTransaction p cl).wire = s.wire ++ [⟨s.caller, [], .running⟩] ∧
      (s.startTransaction p cl).status = s.status ∧ (s.startTransaction p cl).res = s.res ∧
      (s.startTransaction p cl).busConflict = (s.busConflict || s.busy) := by
  unfold State.startTransaction
  split
  · next h => simp [h]
  · next h => simp [h]

/-- A blocked requester places nothing. -/
theorem issue_of_blocked {n : Nat} {s : State} (h : s.blocked n = true) : s.issue n = s := by
  unfold State.issue
  split
  · exact if_pos h
  · rfl

/-- A requester that is not blocked places its next request. -/
theorem issue_of_not_blocked {n : Nat} {s : State} {r : Request} {rest : List Request}
    (hr : s.programs[n]? = some (r :: rest)) (h : s.blocked n = false) :
    s.issue n =
      { s with port := some ⟨n, r.op, r.opnd⟩, programs := s.programs.set n rest } := by
  unfold State.issue
  rw [hr]
  exact if_neg (by simp [h])

/-- Placing a request changes the request port and that requester's list, or nothing. -/
theorem issue_cases (n : Nat) (s : State) :
    s.issue n = s ∨ ∃ r rest, s.programs[n]? = some (r :: rest) ∧ s.blocked n = false ∧
      s.issue n = { s with port := some ⟨n, r.op, r.opnd⟩, programs := s.programs.set n rest } := by
  unfold State.issue
  split
  · next r rest h =>
    split
    · exact .inl rfl
    · next hb => exact .inr ⟨r, rest, h, by simpa using hb, rfl⟩
  · exact .inl rfl

/-- What a step prepares: the ports are emptied, the turn is taken, and only the line's owner may change. -/
theorem prepared_frame {s s' : State} (h : Prepared s s') :
    s'.platform = s.platform ∧ s'.cfg = s.cfg ∧ s'.opened = s.opened ∧ s'.busy = s.busy ∧
      s'.busConflict = s.busConflict ∧ s'.wire = s.wire ∧ s'.chain = s.chain ∧ s'.status = none ∧
      s'.res = none ∧ s'.q = s.q ∧ s'.sdo = s.sdo := by
  cases h with
  | busTurn pick ev ts =>
    obtain ⟨⟨h1, h2, h3, -, -⟩, h4, h5, h6, h7, h8, h9, h10, h11⟩ :=
      selectJob_frame pick { s.tick with turns := ts }
    exact ⟨h1, h2, h4, h5, h3, h10, h11, h8, h9, h6, h7⟩
  | _ => exact ⟨rfl, rfl, rfl, rfl, rfl, rfl, rfl, rfl, rfl, rfl, rfl⟩

/-- With nothing waiting behind it the framer's operation and position stay as they are. -/
theorem prepared_of_not_waiting {s s' : State} (h : Prepared s s') (hp : s.parked = []) :
    s'.job = s.job ∧ s'.pos = s.pos ∧ s'.parked = [] := by
  cases h with
  | busTurn pick ev ts =>
    simp only [selectJob_of_not_waiting pick (s := { s.tick with turns := ts }) hp]
    exact ⟨rfl, rfl, hp⟩
  | _ => exact ⟨rfl, rfl, hp⟩

end Sys2Proof.Machine
end

