-- ==== Sys2Proof/Laws/Line.lean ====
section
/-! SUPPORT. The line of a sequence of bytes, and the chain after a sequence of data bits. -/

namespace Sys2Proof.Machine

theorem lineOf_append (m : WireMode) (p q : List Byte) :
    lineOf m (p ++ q) = lineOf m p ++ lineOf m q := by simp [lineOf]

theorem lineOf_length (m : WireMode) (p : List Byte) :
    (lineOf m p).length = periodsPerByte m * p.length := by
  induction p with
  | nil => rfl
  | cons v p ih =>
    simp only [lineOf, List.flatMap_cons, List.length_append] at *
    rw [ih, wirePattern_length, List.length_cons]
    ring

theorem wirePattern_pad (m : WireMode) :
    wirePattern m Config.padByte = List.replicate (periodsPerByte m) false := by
  cases m <;> decide

/-- Pad bytes hold the line low. -/
theorem lineOf_pad (m : WireMode) (k : Nat) :
    lineOf m (List.replicate k Config.padByte) = List.replicate (periodsPerByte m * k) false := by
  rw [List.eq_replicate_iff]
  refine ⟨by simp [lineOf_length], fun b hb => ?_⟩
  obtain ⟨v, hv, hb⟩ := List.mem_flatMap.1 hb
  rw [(List.mem_replicate.1 hv).2, wirePattern_pad] at hb
  exact (List.mem_replicate.1 hb).2

theorem highRunsFrom_low (n : Nat) (l : List Bool) :
    highRunsFrom 0 (List.replicate n false ++ l) = highRunsFrom 0 l := by
  induction n with
  | zero => rfl
  | succ n ih => simpa [List.replicate_succ, highRunsFrom] using ih

/-- A symbol byte is one high run whose length tells the bit. -/
theorem highRunsFrom_symbol (m : WireMode) (d : Bool) (l : List Bool) :
    highRunsFrom 0 (wirePattern m (symbol d) ++ l) =
      (if d then 2 else 1) :: highRunsFrom 0 l := by
  cases m <;> cases d <;> rfl

theorem bitChain_read_append (p : Platform) (d : Nat) (l m : List Bool) (c : BitChain) :
    BitChain.read p d (l ++ m) c = BitChain.read p d m (BitChain.read p d l c) := by
  simp [BitChain.read]

/-- Taking a list of bits from a known position: where each one lands, and that nothing else moves. -/
theorem foldl_takeBit (len : Nat) (bits : List Bool) (c : Chain) (k : Nat) (hk : c.k = some k) :
    (bits.foldl (fun c d => c.takeBit len d) c).k = some (k + bits.length) ∧
    (bits.foldl (fun c d => c.takeBit len d) c).display = c.display ∧
    (bits.foldl (fun c d => c.takeBit len d) c).shadow.length = c.shadow.length ∧
    ∀ m, (bits.foldl (fun c d => c.takeBit len d) c).shadow[m]? =
      if k ≤ m ∧ m < k + bits.length ∧ m < 24 * len ∧ m < c.shadow.length then bits[m - k]?
      else c.shadow[m]? := by
  induction bits generalizing c k with
  | nil =>
    refine ⟨by simp [hk], rfl, rfl, fun m => ?_⟩
    rw [if_neg (by simp; omega)]
    rfl
  | cons d bits ih =>
    have hk' : (c.takeBit len d).k = some (k + 1) := by simp [Chain.takeBit, hk]
    have hs : (c.takeBit len d).shadow = if k < 24 * len then c.shadow.set k d else c.shadow := by
      simp [Chain.takeBit, hk]
    obtain ⟨a1, a2, a3, a4⟩ := ih (c.takeBit len d) (k + 1) hk'
    simp only [List.foldl_cons]
    refine ⟨by rw [a1, List.length_cons]; congr 1; omega, by rw [a2, takeBit_display],
      by rw [a3, takeBit_shadow_length], fun m => ?_⟩
    rw [a4, takeBit_shadow_length, hs]
    by_cases hm : m = k
    · subst hm
      rw [if_neg (by omega)]
      by_cases hl : m < 24 * len
      · rw [if_pos hl, List.getElem?_set]
        simp [hl]
        split <;> simp_all
      · rw [if_neg hl, if_neg (by omega)]
    · have hne : (if k < 24 * len then c.shadow.set k d else c.shadow)[m]? = c.shadow[m]? := by
        split
        · rw [List.getElem?_set_ne (Ne.symm hm)]
        · rfl
      rw [hne]
      by_cases hr : k + 1 ≤ m
      · rw [show m - k = (m - (k + 1)) + 1 by omega, List.getElem?_cons_succ, List.length_cons]
        congr 1
        ext; constructor <;> intro h <;> omega
      · rw [if_neg (by omega), if_neg (by omega)]

end Sys2Proof.Machine
end

