-- ==== Sys2Proof/Laws/PerInstr.lean ====
section
/-! SUPPORT. What holds of every instruction as syntax, one lemma per constructor. -/

/-- The encoding of an instruction lies in one of the two spaces: a selector that names an operation
(R58, R59), or a byte of the code book (R54). -/
def Sys2Proof.Laws.EncodingSpace.Statement (i : Sys2Proof.Instr) : Prop :=
  (∃ op o, Sys2Proof.encode i = .request op o ∧ op.toNat ≤ 5) ∨
    ∃ v, Sys2Proof.encode i = .payloadByte v ∧ Sys2Proof.isCodeByte v = true

namespace Sys2Proof.Laws

theorem EncodingSpace.init (n : Nat) (b : Ratio) (d : Option DeviceName) (v : Ratio) :
    EncodingSpace.Statement (.init n b d v) := .inl ⟨_, _, rfl, by decide⟩

theorem EncodingSpace.encodeLed (t : Rgb) : EncodingSpace.Statement (.encodeLed t) :=
  .inl ⟨_, _, rfl, by decide⟩

theorem EncodingSpace.encodeFrame (f : Frame) : EncodingSpace.Statement (.encodeFrame f) :=
  .inl ⟨_, _, rfl, by decide⟩

theorem EncodingSpace.transfer (p : Payload) : EncodingSpace.Statement (.transfer p) :=
  .inl ⟨_, _, rfl, by decide⟩

theorem EncodingSpace.showFrame (f : Frame) : EncodingSpace.Statement (.showFrame f) :=
  .inl ⟨_, _, rfl, by decide⟩

theorem EncodingSpace.shutdown : EncodingSpace.Statement .shutdown :=
  .inl ⟨_, _, rfl, by decide⟩

theorem EncodingSpace.symZero : EncodingSpace.Statement .symZero :=
  .inr ⟨_, rfl, by decide⟩

theorem EncodingSpace.symOne : EncodingSpace.Statement .symOne :=
  .inr ⟨_, rfl, by decide⟩

theorem EncodingSpace.padByte : EncodingSpace.Statement .padByte :=
  .inr ⟨_, rfl, by decide⟩

end Sys2Proof.Laws
end

