-- ==== Sys2Proof/Tests/Slice0.lean ====
section
/-! SUPPORT. The model's own tests. Expected results are copied from spec/95_test_vectors.md or worked out by
hand from the rule named; then, for every obligation with hypotheses, a state and operands that meet them. -/

namespace Sys2Proof.Tests

open Sys2Proof Sys2Proof.Machine

/-! ### Helpers -/

/-- The state of a `next` outcome. -/
def next? : Host.Outcome State Fault Refusal → Option State
  | .next s => some s
  | _ => none

/-- The reason of a `refused` outcome. -/
def refusal? : Host.Outcome State Fault Refusal → Option Refusal
  | .refused r => some r
  | _ => none

/-- The reason of a `fault` outcome. -/
def fault? : Host.Outcome State Fault Refusal → Option Fault
  | .fault f => some f
  | _ => none

/-- A platform in the default wire mode with `n` LEDs on the strip, where device 7 does not work. -/
def platform (n : Nat) : Platform := ⟨.w8Msb, 64, n, [7]⟩

/-- The configuration of a strip of `n` LEDs at brightness `b`. -/
def cfg (n : Nat) (b : Ratio) : CfgRegs := ⟨n, b, 9, ⟨1, 1⟩⟩

/-- After INIT, with the chain idle at the start (premise of spec/95 section 2.8). -/
def idle (n : Nat) (b : Ratio) : State :=
  { State.powerOn (platform n) with
    cfg := some (cfg n b)
    opened := true
    chain := ⟨some 0, List.replicate (24 * n) false, List.replicate n ⟨9, 9, 9⟩⟩ }

/-- The same with a request of requester 0 on the port. -/
def asking (n : Nat) (b : Ratio) (op : Selector) (o : Operand) : State :=
  { idle n b with port := some ⟨0, op, o⟩ }

/-- The 24 symbols of `ENCODE_LED (255,0,128)` at brightness 1 (spec/95 section 2.5, first row). -/
def redBlue : Payload :=
  [0x04#8, 0x04#8, 0x04#8, 0x04#8, 0x04#8, 0x04#8, 0x04#8, 0x04#8] ++
  [0x06#8, 0x06#8, 0x06#8, 0x06#8, 0x06#8, 0x06#8, 0x06#8, 0x06#8] ++
  [0x06#8, 0x04#8, 0x04#8, 0x04#8, 0x04#8, 0x04#8, 0x04#8, 0x04#8]

/-- `ENCODE_FRAME [(255,0,128)]` with one LED. -/
def redBluePayload : Payload := redBlue ++ List.replicate 64 0x00#8

/-- The operation that sends it, in a block with one LED. -/
def redBlueJob : Job := ⟨0, redBluePayload, false, 0⟩

/-- That transaction with `pos` bytes out; a chain that took the data bits of `redBlue` so far. -/
def sending (pos : Nat) : State :=
  { idle 1 ⟨1, 1⟩ with
    busy := true
    pos := pos
    job := some redBlueJob
    wire := [⟨0, redBluePayload.take pos, .running⟩]
    chain :=
      ⟨some (min pos 24), ((redBlue.take pos).map (· == 0x06#8)) ++ List.replicate (24 - pos) false,
        [⟨9, 9, 9⟩]⟩ }

/-! ### Well-formedness: an ill-formed term for each check -/

theorem test_wellFormed_refuses_zero_denominator :
    (Instr.init 1 ⟨0, 0⟩ (some 9) ⟨1, 1⟩).wellFormed = false := by decide

theorem test_wellFormed_refuses_brightness_above_one :
    (Instr.init 1 ⟨3, 2⟩ (some 9) ⟨1, 1⟩).wellFormed = false := by decide

theorem test_wellFormed_refuses_zero_speed :
    (Instr.init 1 ⟨1, 2⟩ (some 9) ⟨0, 1⟩).wellFormed = false := by decide

theorem test_wellFormed_refuses_speed_without_denominator :
    (Instr.init 1 ⟨1, 2⟩ (some 9) ⟨1, 0⟩).wellFormed = false := by decide

theorem test_wellFormed_refuses_foreign_byte :
    (Instr.transfer (0x05#8 :: List.replicate 63 0x00#8)).wellFormed = false := by decide

theorem test_wellFormed_refuses_short_payload :
    (Instr.transfer (List.replicate 40 0x00#8)).wellFormed = false := by decide

theorem test_wellFormed_refuses_length_between_leds :
    (Instr.transfer (List.replicate 87 0x00#8)).wellFormed = false := by decide

theorem test_wellFormed_accepts_the_end_points :
    (Instr.init 0 ⟨0, 1⟩ none ⟨1, 1⟩).wellFormed = true ∧
      (Instr.init 24 ⟨1, 1⟩ (some 9) ⟨800000, 1⟩).wellFormed = true ∧
      (Instr.transfer redBluePayload).wellFormed = true := by decide

/-! ### Decoding: words from the tables of R58, R50, R51 -/

theorem test_decode_init :
    (decode (.request 0b000#3 (.config ⟨24, 1, 1, some 9, ⟨1, 1⟩⟩))).toOption =
      some (.init 24 ⟨1, 1⟩ (some 9) ⟨1, 1⟩) := by decide

theorem test_decode_encodeLed :
    (decode (.request 0b001#3 (.triple ⟨255, 128, 1⟩))).toOption =
      some (.encodeLed ⟨255, 128, 1⟩) := by decide

/-- R47: red in bits 23..16, green in 15..8, blue in 7..0. -/
theorem test_decode_encodeLed_packed :
    (decode (.request 0b001#3 (.rgb24 0xFF8001#24))).toOption =
      some (.encodeLed ⟨255, 128, 1⟩) := by decide

theorem test_decode_encodeFrame :
    (decode (.request 0b010#3 (.frame [⟨1, 2, 3⟩, ⟨4, 5, 6⟩]))).toOption =
      some (.encodeFrame [⟨1, 2, 3⟩, ⟨4, 5, 6⟩]) := by decide

theorem test_decode_transfer :
    (decode (.request 0b011#3 (.payload [4, 6, 0]))).toOption =
      some (.transfer [0x04#8, 0x06#8, 0x00#8]) := by decide

theorem test_decode_show :
    (decode (.request 0b100#3 (.frame [⟨255, 0, 128⟩]))).toOption =
      some (.showFrame [⟨255, 0, 128⟩]) := by decide

theorem test_decode_shutdown :
    (decode (.request 0b101#3 .none)).toOption = some .shutdown := by decide

theorem test_decode_symbols :
    (decode (.payloadByte 0b00000100#8)).toOption = some .symZero ∧
      (decode (.payloadByte 0b00000110#8)).toOption = some .symOne ∧
      (decode (.payloadByte 0b00000000#8)).toOption = some .padByte := by decide

/-- The bytes spec/95 section 2.3 lists as no symbols, but for 0x00. -/
theorem test_decode_refuses_foreign_bytes :
    ∀ v ∈ [0x02#8, 0x05#8, 0x07#8, 0x0E#8, 0x86#8, 0xFF#8],
      (decode (.payloadByte v)).toOption = none ∧ decodeSymbol v = none := by decide

theorem test_decode_refuses_wrong_operand :
    (decode (.request 0b101#3 (.frame []))).toOption = none ∧
      (decode (.request 0b011#3 .none)).toOption = none := by decide

theorem test_tableWord_of_symOne : decodeTableWord 8 0x06 = some .symOne := by decide

theorem test_withFetchWord_runs_symOne :
    ((next? (step (State.reset.withFetchWord 8 0x06))).map fun s => (s.pos, s.line)) =
      some (1, [false, false, false, false, false, true, true, false]) := by decide

theorem test_withFetchWord_runs_init :
    ((next? (step (State.reset.withFetchWord 8 0x00))).map fun s => (s.opened, s.cfg)) =
      some (true, some ⟨0, ⟨0, 1⟩, 0, ⟨1, 1⟩⟩) := by decide

/-! ### The encoder (spec/95 sections 2.1, 2.2, 2.4 to 2.7) -/

theorem test_scale_table :
    scale 255 ⟨1, 1⟩ = 255 ∧ scale 255 ⟨0, 1⟩ = 0 ∧ scale 255 ⟨1, 2⟩ = 127 ∧ scale 10 ⟨1, 4⟩ = 2 ∧
      scale 200 ⟨3, 10⟩ = 60 ∧ scale 100 ⟨29, 100⟩ = 29 ∧ scale 255 ⟨254, 255⟩ = 254 ∧
      scale 1 ⟨99, 100⟩ = 0 ∧ scale 7 ⟨1, 7⟩ = 1 ∧ scale 6 ⟨1, 7⟩ = 0 := by decide

theorem test_reorder : reorder ⟨255, 0, 128⟩ = ⟨0, 255, 128⟩ ∧ reorder ⟨1, 2, 3⟩ = ⟨2, 1, 3⟩ := by decide

theorem test_encodeByte_of_60 :
    encodeByte 60 = [0x04#8, 0x04#8, 0x06#8, 0x06#8, 0x06#8, 0x06#8, 0x04#8, 0x04#8] := by decide

theorem test_decodeFragment_of_first_row : decodeFragment redBlue = some ⟨0, 255, 128⟩ := by decide

theorem test_payloadIndex_and_role :
    payloadIndex 0 2 0 = 23 ∧ payloadIndex 1 1 3 = 36 ∧ payloadIndex 23 2 0 = 575 ∧
      roleAt 24 575 = .data 23 2 0 ∧ roleAt 24 576 = .pad 0 ∧ roleAt 1 30 = .pad 6 := by decide

theorem test_wire_of_first_symbols_of_128 :
    lineOf .w3Msb [0x06#8, 0x04#8, 0x04#8] =
      [true, true, false, true, false, false, true, false, false] ∧
    readLine (lineOf .w8Lsb [0x06#8, 0x04#8, 0x04#8]) = some [true, false, false] := by decide

/-- The examples of R60. -/
theorem test_text_of_requests :
    instrText (.init 2 ⟨1, 2⟩ none ⟨1, 1⟩) = "INIT led_count=2 brightness=1/2" ∧
      instrText (.encodeLed ⟨255, 128, 1⟩) = "ENCODE_LED (255,128,1)" ∧
      requestText "A" (.showFrame [⟨255, 128, 1⟩, ⟨0, 3, 255⟩]) = "A: SHOW [(255,128,1),(0,3,255)]" ∧
      instrText (.transfer [0x04#8, 0x06#8, 0x00#8]) = "TRANSFER 04 06 00" := by decide

/-! ### Instructions, one step each (spec/95 sections 2.5, 2.8, P1, P4, P5) -/

/-- Section 2.5, row (200,100,50) at 3/10: green 30, red 60, blue 15. -/
theorem test_encodeLed_reorders_and_scales :
    ((next? (step (asking 1 ⟨3, 10⟩ 0b001#3 (.triple ⟨200, 100, 50⟩)))).bind (·.res)) =
      some ⟨0, .fragment
        ([0x04#8, 0x04#8, 0x04#8, 0x06#8, 0x06#8, 0x06#8, 0x06#8, 0x04#8] ++
          [0x04#8, 0x04#8, 0x06#8, 0x06#8, 0x06#8, 0x06#8, 0x04#8, 0x04#8] ++
          [0x04#8, 0x04#8, 0x04#8, 0x04#8, 0x06#8, 0x06#8, 0x06#8, 0x06#8])⟩ := by decide

theorem test_encodeLed_refuses_channel_256 :
    refusal? (step (asking 1 ⟨1, 1⟩ 0b001#3 (.triple ⟨256, 0, 0⟩))) =
      some (.badRequest .channelOutOfRange) := by decide

theorem test_encodeFrame_of_one_led :
    ((next? (step (asking 1 ⟨1, 1⟩ 0b010#3 (.frame [⟨255, 0, 128⟩])))).map fun s =>
      (s.res, s.busy)) = some (some ⟨0, .payload redBluePayload⟩, false) := by decide

theorem test_encodeFrame_refuses_two_leds_for_one :
    refusal? (step (asking 1 ⟨1, 1⟩ 0b010#3 (.frame [⟨1, 2, 3⟩, ⟨4, 5, 6⟩]))) =
      some .frameLength := by decide

theorem test_init_with_invalid_device :
    ((next? (exec (.init 1 ⟨1, 1⟩ (some 7) ⟨1, 1⟩) (State.powerOn (platform 1)))).map fun s =>
      (s.opened, s.cfg, s.res)) =
      some (false, none, some ⟨0, .status (.startupError (some 7))⟩) := by decide

theorem test_init_refusals :
    refusal? (exec (.init 1 ⟨1, 1⟩ (some 9) ⟨1, 1⟩) (idle 1 ⟨1, 1⟩)) = some .initTwice ∧
      refusal? (exec (.init 1 ⟨1, 1⟩ (some 9) ⟨0, 1⟩) (State.powerOn (platform 1))) =
        some .illegalParameter ∧
      (decode (.request 0b000#3 (.config ⟨1, 1, 1, some 9, ⟨0, 1⟩⟩))).toOption = none := by decide

theorem test_transfer_accepts_and_blocks :
    ((next? (exec (.transfer redBluePayload) (idle 1 ⟨1, 1⟩))).map fun s =>
      (s.busy, s.pos, s.wire, s.res)) = some (true, 0, [⟨0, [], .running⟩], none) := by decide

/-- The three refused payloads of section 2.8: 87 bytes; byte 3 is 05; byte 30 is a symbol. -/
theorem test_transfer_refusals :
    ∀ p ∈ [redBluePayload.take 87, redBluePayload.set 3 0x05#8, redBluePayload.set 30 0x04#8],
      refusal? (exec (.transfer p) (idle 1 ⟨1, 1⟩)) = some .malformedPayload := by decide

theorem test_show_sends_encoded_frame :
    ((next? (exec (.showFrame [⟨255, 0, 128⟩]) (idle 1 ⟨1, 1⟩))).bind (·.job)) =
      some redBlueJob := by decide

/-- Section 2.8, last row: requester 1 asks while requester 0's transaction has `pos = 5`. -/
theorem test_show_overlaps :
    ((next? (step { sending 5 with port := some ⟨1, 0b100#3, .frame [⟨0, 0, 0⟩]⟩ })).map fun s =>
      (s.busConflict, s.pos, s.wire.length, s.chain.k)) = some (true, 5, 2, none) := by decide

/-- R92's example: `04` × 24 then `00` × 64. -/
theorem test_shutdown_sends_black :
    ((next? (exec .shutdown (idle 1 ⟨1, 1⟩))).map fun s => (s.opened, s.job)) =
      some (true, some ⟨0, List.replicate 24 0x04#8 ++ List.replicate 64 0x00#8, true, 0⟩) := by decide

theorem test_symZero_of_first_byte :
    ((next? (step (sending 0))).map fun s => (s.pos, s.chain.k, s.wire)) =
      some (1, some 1, [⟨0, [0x04#8], .running⟩]) := by decide

theorem test_symZero_without_transaction :
    fault? (exec .symZero (idle 1 ⟨1, 1⟩)) = some .noTransaction := by decide

/-- Section 2.8: the bus fails after 10 bytes. -/
theorem test_symOne_bus_fails :
    ((next? (step { sending 10 with turns := [.bus 0 (.failBefore 3)] })).map fun s =>
      (s.busy, s.chain.k, s.wire, s.res)) =
      some (false, none, [⟨0, List.replicate 8 0x04#8 ++ [0x06#8, 0x06#8], .failed⟩],
        some ⟨0, .status (.transferError 3)⟩) := by decide

/-- P1: the last byte of the SHOW latches `(0,255,128)`. -/
theorem test_padByte_completes :
    ((next? (step (sending 87))).map fun s => (s.busy, s.chain.k, s.chain.display, s.status)) =
      some (false, some 0, [⟨0, 255, 128⟩], some .ok) := by decide

theorem test_padByte_before_the_last_changes_no_led :
    ((next? (step (sending 30))).map fun s => (s.busy, s.pos, s.chain.display)) =
      some (true, 31, [⟨9, 9, 9⟩]) := by decide

/-! ### Witnesses: the hypotheses of each obligation can be met, clause by clause -/

/-- A step that answers a next state with a property, from a computed check. -/
theorem exists_next {o : Host.Outcome State Fault Refusal} (p : State → Bool)
    (h : (next? o).any p = true) : ∃ t, o = .next t ∧ p t = true := by
  cases o with
  | next s => exact ⟨s, rfl, h⟩
  | fault => cases h
  | refused => cases h

theorem configured_idle (n : Nat) (b : Ratio) : Configured (idle n b) (cfg n b) := ⟨rfl, rfl⟩

theorem noOverlap_idle (n : Nat) (b : Ratio) : NoOverlap (idle n b) := ⟨rfl, rfl⟩

theorem chainFits_idle (n : Nat) (b : Ratio) : ChainFits (idle n b) := by
  simp [ChainFits, idle, State.powerOn, platform]

theorem sending_sends (pos : Nat) : Sending (sending pos) redBlueJob := ⟨rfl, rfl⟩

theorem witness_UnknownSelectorsRefused :
    ∀ op ∈ [0b110#3, 0b111#3], ∃ (s : State) (p : Port), s.port = some p ∧ p.op = op :=
  fun op _ => ⟨asking 1 ⟨1, 1⟩ op .none, _, rfl, rfl⟩

/-- Every constructor has a well-formed term, with its operands at the ends of their ranges. -/
theorem witness_DecodeEncodeRoundTrip :
    ∀ i ∈ [Instr.init 0 ⟨0, 1⟩ none ⟨1, 1⟩, .init 24 ⟨1, 1⟩ (some 9) ⟨1, 1⟩, .encodeLed ⟨255, 0, 255⟩,
      .encodeFrame [], .encodeFrame [⟨255, 0, 255⟩], .transfer redBluePayload, .showFrame [⟨0, 255, 0⟩],
      .shutdown, .symZero, .symOne, .padByte], i.wellFormed = true := by decide

theorem witness_OutOfDomainOperandsRefused :
    (∀ t ∈ [RawRgb.mk 256 0 0, ⟨0, -1, 0⟩, ⟨255, 255, 256⟩], ∃ (s : State) (q : Nat),
      s.port = some ⟨q, 0b001#3, .triple t⟩ ∧
        ¬ (0 ≤ t.r ∧ t.r ≤ 255 ∧ 0 ≤ t.g ∧ t.g ≤ 255 ∧ 0 ≤ t.b ∧ t.b ≤ 255)) ∧
    (∀ op ∈ [0b010#3, 0b100#3], ∃ (s : State) (q : Nat) (f : List RawRgb) (t : RawRgb),
      s.port = some ⟨q, op, .frame f⟩ ∧ t ∈ f ∧
        ¬ (0 ≤ t.r ∧ t.r ≤ 255 ∧ 0 ≤ t.g ∧ t.g ≤ 255 ∧ 0 ≤ t.b ∧ t.b ≤ 255)) ∧
    (∀ x ∈ [256, 260, -1], ∃ (s : State) (q : Nat) (p : List Int),
      s.port = some ⟨q, 0b011#3, .payload p⟩ ∧ x ∈ p ∧ ¬ (0 ≤ x ∧ x ≤ 255)) ∧
    ∀ c ∈ [RawConfig.mk (-1) 1 1 none ⟨1, 1⟩, ⟨1, 0, 0, none, ⟨1, 1⟩⟩, ⟨1, -1, 1, none, ⟨1, 1⟩⟩,
      ⟨1, 2, 1, none, ⟨1, 1⟩⟩, ⟨1, 1, 1, some 9, ⟨0, 1⟩⟩, ⟨1, 1, 1, some 9, ⟨1, 0⟩⟩],
      ∃ (s : State) (q : Nat), s.port = some ⟨q, 0b000#3, .config c⟩ ∧
        ¬ (0 ≤ c.ledCount ∧ 0 < c.den ∧ 0 ≤ c.num ∧ c.num ≤ c.den ∧ 0 < c.speed.num ∧ 0 < c.speed.den) := by
  refine ⟨fun t ht => ⟨asking 1 ⟨1, 1⟩ 0b001#3 (.triple t), 0, rfl, ?_⟩,
    fun op _ => ⟨asking 1 ⟨1, 1⟩ op (.frame [⟨1, 2, 3⟩, ⟨0, 0, 256⟩]), 0, _, ⟨0, 0, 256⟩, rfl, by decide,
      by decide⟩,
    fun x hx => ⟨asking 1 ⟨1, 1⟩ 0b011#3 (.payload [4, x]), 0, _, rfl, by simp, ?_⟩,
    fun c hc => ⟨asking 1 ⟨1, 1⟩ 0b000#3 (.config c), 0, rfl, ?_⟩⟩
  · revert t; decide
  · revert x; decide
  · revert c; decide

/-- The clause on the kind of the operand: SHUTDOWN with a Frame on OPND, and the others with none. -/
theorem witness_OutOfDomainOperandsRefused_kind :
    ∀ p ∈ [Port.mk 0 0b101#3 (.frame []), ⟨0, 0b000#3, .none⟩, ⟨0, 0b001#3, .none⟩, ⟨0, 0b010#3, .none⟩,
      ⟨0, 0b011#3, .frame []⟩, ⟨0, 0b100#3, .payload []⟩], ∃ s : State, s.port = some p ∧
        p.op.toNat ≤ 5 ∧ operandFits p.op p.opnd = false := by
  intro p hp
  refine ⟨{ idle 1 ⟨1, 1⟩ with port := some p }, rfl, ?_⟩
  revert p
  decide

theorem witness_ScaleIsFloorOfProduct :
    (Ratio.mk 0 1).isBrightness = true ∧ (Ratio.mk 254 255).isBrightness = true ∧
      (Ratio.mk 1 1).isBrightness = true := by decide

theorem witness_BrightnessEndPoints :
    (∃ b : Ratio, b.isBrightness = true ∧ b.num = b.den) ∧
      ∃ b : Ratio, b.isBrightness = true ∧ b.num = 0 :=
  ⟨⟨⟨3, 3⟩, by decide, rfl⟩, ⟨0, 3⟩, by decide, rfl⟩

theorem witness_ScaleMonotoneInBrightness :
    ∃ b₁ b₂ : Ratio, b₁.isBrightness = true ∧ b₂.isBrightness = true ∧
      b₁.num * b₂.den < b₂.num * b₁.den := ⟨⟨254, 255⟩, ⟨1, 1⟩, by decide, by decide, by decide⟩

theorem witness_ScaleMonotoneInChannel :
    ∃ (c₁ c₂ : Chan) (b : Ratio), b.isBrightness = true ∧ c₁.toNat ≤ c₂.toNat ∧ c₁ ≠ c₂ :=
  ⟨254, 255, ⟨1, 1⟩, by decide, by decide, by decide⟩

theorem witness_DecodeSymbolReadsSymbolsOnly :
    (∃ (v : Byte) (d : Bool), decodeSymbol v = some d) ∧ ∃ v : Byte, v ≠ 0x04#8 ∧ v ≠ 0x06#8 :=
  ⟨⟨0x06#8, true, by decide⟩, 0x05#8, by decide, by decide⟩

theorem witness_FragmentRoundTrip :
    ∃ (f : List Byte) (v : Byte), v ∈ f ∧ decodeSymbol v = none ∧ f.length = 24 :=
  ⟨redBlue.set 23 0x00#8, 0x00#8, by decide, by decide, by decide⟩

theorem witness_PayloadDeterminesScaledColors :
    (∃ v w : Chan, encodeByte v = encodeByte w) ∧
      ∃ (b : Ratio) (f g : Frame), f ≠ g ∧ encodeFrame scale b f = encodeFrame scale b g :=
  ⟨⟨5, 5, rfl⟩, ⟨1, 2⟩, [⟨2, 0, 0⟩], [⟨3, 0, 0⟩], by decide, by decide⟩

theorem witness_PayloadCarriesFrame :
    ∃ (f : Frame) (i j k n : Nat) (t : Rgb), f[i]? = some t ∧ j ≤ 2 ∧ k ≤ 7 ∧ n < 64 :=
  ⟨[⟨255, 0, 128⟩], 0, 2, 7, 63, _, rfl, by decide, by decide, by decide⟩

theorem witness_PayloadMapCoversOnce :
    ∃ n i j k m pos : Nat, i < n ∧ j ≤ 2 ∧ k ≤ 7 ∧ m < 64 ∧ pos < payloadLength n ∧
      payloadIndex i j k + 1 = 24 * n ∧ pos + 1 = payloadLength n :=
  ⟨2, 1, 2, 0, 63, 111, by decide, by decide, by decide, by decide, by decide, by decide, by decide⟩

theorem witness_InitLoadsConfiguration :
    ∃ (s : State) (b v : Ratio) (d : DeviceName), s.opened = false ∧ s.cfg = none ∧
      b.isBrightness = true ∧ v.isRate = true ∧ d ∉ s.platform.badDevices :=
  ⟨State.powerOn (platform 1), ⟨1, 1⟩, ⟨1, 1⟩, 9, rfl, rfl, by decide, by decide, by decide⟩

theorem witness_InitRaisesStartupError :
    ∀ d ∈ [none, some 7], ∃ (s : State) (b v : Ratio), s.opened = false ∧ s.cfg = none ∧
      s.parked = [] ∧ b.isBrightness = true ∧ v.isRate = true ∧
      ∀ x, d = some x → x ∈ s.platform.badDevices := by
  intro d hd
  refine ⟨State.powerOn (platform 1), ⟨1, 1⟩, ⟨1, 1⟩, rfl, rfl, rfl, by decide, by decide, fun x hx => ?_⟩
  subst hx
  simp only [List.mem_cons, Option.some.injEq, reduceCtorEq, List.not_mem_nil, or_false, false_or] at hd
  subst hd
  decide

/-- An open block; a block that SHUTDOWN closed; and both ways a brightness and a speed can be illegal. -/
theorem witness_InitRefused :
    (idle 1 ⟨1, 1⟩).opened = true ∧
    ({ idle 1 ⟨1, 1⟩ with opened := false } : State).cfg ≠ none ∧
    ∀ p ∈ [(Ratio.mk 0 0, Ratio.mk 1 1), (⟨2, 1⟩, ⟨1, 1⟩), (⟨1, 1⟩, ⟨0, 1⟩), (⟨1, 1⟩, ⟨1, 0⟩)],
      ∃ s : State, s.opened = false ∧ s.cfg = none ∧
        ¬ (0 < p.1.den ∧ p.1.num ≤ p.1.den ∧ 0 < p.2.den ∧ 0 < p.2.num) := by
  refine ⟨rfl, by decide, fun p hp => ⟨State.powerOn (platform 1), rfl, rfl, ?_⟩⟩
  revert p
  decide

theorem witness_EncodeLedAnswers : ∃ (s : State) (c : CfgRegs), Configured s c :=
  ⟨_, _, configured_idle 1 ⟨1, 1⟩⟩

theorem witness_EncodeFrameAnswers :
    ∃ (s : State) (c : CfgRegs) (f : Frame), Configured s c ∧ f.length = c.ledCount :=
  ⟨_, _, [⟨255, 0, 128⟩], configured_idle 1 ⟨1, 1⟩, rfl⟩

/-- The two runs differ in the state of the framer. -/
theorem witness_EncoderDependsOnlyOnConfiguration :
    ∃ (s s' t t' : State) (c c' : CfgRegs) (i : Instr), Configured s c ∧ Configured s' c' ∧
      c.brightness = c'.brightness ∧ c.ledCount = c'.ledCount ∧
      ((∃ x, i = .encodeLed x) ∨ ∃ f, i = .encodeFrame f) ∧ exec i s = .next t ∧
      exec i s' = .next t' ∧ s.busy ≠ s'.busy :=
  ⟨idle 1 ⟨1, 1⟩, sending 5, _, _, _, _, .encodeFrame [⟨1, 2, 3⟩], ⟨rfl, rfl⟩, ⟨rfl, rfl⟩, rfl, rfl,
    .inr ⟨_, rfl⟩, rfl, rfl, by decide⟩

theorem witness_TransferAccepted :
    ∃ (s : State) (c : CfgRegs) (p : Payload), Configured s c ∧ s.busy = false ∧
      payloadWellFormed c.ledCount p = true :=
  ⟨_, _, redBluePayload, configured_idle 1 ⟨1, 1⟩, rfl, by decide⟩

/-- On an idle bus and on a busy one. -/
theorem witness_ShowIsTransferOfEncodedFrame :
    ∀ busy : Bool, ∃ (s : State) (c : CfgRegs) (f : Frame), Configured s c ∧ f.length = c.ledCount ∧
      s.busy = busy :=
  fun busy => ⟨{ idle 1 ⟨1, 1⟩ with busy := busy }, cfg 1 ⟨1, 1⟩, [⟨255, 0, 128⟩], ⟨rfl, rfl⟩, rfl, rfl⟩

theorem witness_ShutdownAccepted :
    ∃ (s : State) (c : CfgRegs), Configured s c ∧ s.busy = false :=
  ⟨_, _, configured_idle 1 ⟨1, 1⟩, rfl⟩

theorem witness_RefusedWhileNotOpened : (State.powerOn (platform 1)).opened = false ∧
    ({ idle 1 ⟨1, 1⟩ with opened := false } : State).opened = false := ⟨rfl, rfl⟩

theorem witness_WrongFrameLengthRefused :
    ∀ f ∈ [[], [Rgb.mk 1 2 3, ⟨4, 5, 6⟩]], ∃ (s : State) (c : CfgRegs), Configured s c ∧
      f.length ≠ c.ledCount := by
  intro f hf
  refine ⟨_, _, configured_idle 1 ⟨1, 1⟩, ?_⟩
  revert f
  decide

theorem witness_TransferAcceptsExactlyPayloads :
    ∃ (s : State) (c : CfgRegs) (p p' : Payload), Configured s c ∧
      payloadWellFormed c.ledCount p = true ∧ payloadWellFormed c.ledCount p' = false :=
  ⟨_, _, redBluePayload, redBluePayload.set 24 0x04#8, configured_idle 1 ⟨1, 1⟩, by decide, by decide⟩

theorem witness_OverlapMarksConflict :
    ∀ (p : Payload) (cl : Bool) (i : Instr),
      (p, cl, i) ∈ [(redBluePayload, false, Instr.transfer redBluePayload),
        (encodeFrame scale ⟨1, 1⟩ [⟨1, 2, 3⟩], false, .showFrame [⟨1, 2, 3⟩]),
        (encodeFrame scale ⟨1, 1⟩ (blackFrame 1), true, .shutdown)] →
      ∃ (s : State) (c : CfgRegs), Configured s c ∧ s.busy = true ∧
        ((i = .transfer p ∧ payloadWellFormed c.ledCount p = true ∧ cl = false) ∨
          (∃ f : Frame, i = .showFrame f ∧ f.length = c.ledCount ∧ cl = false ∧
            p = encodeFrame scale c.brightness f) ∨
          (i = .shutdown ∧ cl = true ∧ p = encodeFrame scale c.brightness (blackFrame c.ledCount))) := by
  intro p cl i h
  refine ⟨sending 5, cfg 1 ⟨1, 1⟩, ⟨rfl, rfl⟩, rfl, ?_⟩
  simp only [List.mem_cons, Prod.mk.injEq, List.not_mem_nil, or_false] at h
  obtain ⟨rfl, rfl, rfl⟩ | ⟨rfl, rfl, rfl⟩ | ⟨rfl, rfl, rfl⟩ := h
  · exact .inl ⟨rfl, by decide, rfl⟩
  · exact .inr (.inl ⟨_, rfl, rfl, rfl, rfl⟩)
  · exact .inr (.inr ⟨rfl, rfl, rfl⟩)

theorem witness_PseudoOperationsAreShows :
    ∀ n ∈ [0, 1], ∃ (s : State) (c : CfgRegs), Configured s c ∧ n ≤ c.ledCount := by
  intro n hn
  refine ⟨_, _, configured_idle 1 ⟨1, 1⟩, ?_⟩
  revert n
  decide

/-- With and without an earlier overlap, up to the last byte but one. -/
theorem witness_ByteGoesOut :
    ∀ conflict : Bool, ∃ (s : State) (j : Job), Sending s j ∧ s.bus = .ok ∧
      s.pos + 2 = j.payload.length ∧ s.busConflict = conflict :=
  fun conflict => ⟨{ sending 86 with busConflict := conflict }, redBlueJob, ⟨rfl, rfl⟩, rfl, rfl, rfl⟩

theorem witness_LastByteCompletes :
    ∃ (s : State) (j : Job), Sending s j ∧ NoOverlap s ∧ s.bus = .ok ∧ j.payload.length = s.pos + 1 :=
  ⟨sending 87, redBlueJob, sending_sends 87, ⟨rfl, rfl⟩, rfl, by decide⟩

theorem witness_BusFailureBeforeByte :
    ∃ (s : State) (j : Job) (c : Nat), Sending s j ∧ s.parked = [] ∧ s.bus = .failBefore c :=
  ⟨{ sending 0 with bus := .failBefore 3 }, redBlueJob, 3, ⟨rfl, rfl⟩, rfl, rfl⟩

theorem witness_BusFailureAfterByte :
    ∃ (s : State) (j : Job) (c : Nat), Sending s j ∧ NoOverlap s ∧ s.bus = .failAfter c :=
  ⟨{ sending 87 with bus := .failAfter 3 }, redBlueJob, 3, ⟨rfl, rfl⟩, ⟨rfl, rfl⟩, rfl⟩

theorem witness_ByteWithoutTransactionFaults : (idle 1 ⟨1, 1⟩).busy = false := rfl

/-- Two states that differ in the framer, in which SHUTDOWN is refused. -/
theorem witness_RefusalsPrecedeOverlapCheck :
    ∃ (s s' : State) (i : Instr) (r : Refusal), s'.opened = s.opened ∧ s'.cfg = s.cfg ∧
      s'.busy ≠ s.busy ∧ i = .shutdown ∧ exec i s = .refused r :=
  ⟨{ idle 1 ⟨1, 1⟩ with opened := false }, { sending 5 with opened := false }, .shutdown, .notOpened,
    rfl, rfl, by decide, rfl, rfl⟩

theorem witness_StepRunsRequestOnPort :
    ∃ (s : State) (p : Port) (i : Instr), s.port = some p ∧ decode (.request p.op p.opnd) = .ok i :=
  ⟨asking 1 ⟨1, 1⟩ 0b101#3 .none, _, .shutdown, rfl, rfl⟩

/-- With a request on the port and one of another requester still to come. -/
theorem witness_StepRunsRequestOnPort_inRange :
    ∃ (s : State) (c : CfgRegs) (p : Port), Configured s c ∧ InRange s ∧ s.port = some p ∧
      p.op ≠ 0b000#3 ∧ s.programs ≠ [] := by
  refine ⟨{ asking 1 ⟨1, 1⟩ 0b100#3 (.frame [⟨255, 0, 128⟩]) with
    programs := [[], [⟨0b101#3, .none⟩]] }, _, _, configured_idle 1 ⟨1, 1⟩, ⟨1, ?_, ?_⟩, rfl, by decide,
    by decide⟩
  · rintro c ⟨⟩
    rfl
  · intro q hq
    have : q = ⟨0b100#3, .frame [⟨255, 0, 128⟩]⟩ ∨ q = ⟨0b101#3, .none⟩ := by
      simpa [pendingRequests, asking] using hq
    obtain rfl | rfl := this
    · exact ⟨.showFrame [⟨255, 0, 128⟩], rfl, rfl, rfl, fun _ => rfl⟩
    · exact ⟨.shutdown, rfl, rfl, rfl, fun _ => rfl⟩

theorem witness_StepRunsByteAtPosition :
    ∃ (s : State) (j : Job) (v : Byte) (i : Instr), s.port = none ∧ Sending s j ∧
      j.payload[s.pos]? = some v ∧ decode (.payloadByte v) = .ok i ∧ s.parked = [] ∧
      (s.turns = [] ∨ ∃ pick ev ts, s.turns = .bus pick ev :: ts) :=
  ⟨{ sending 8 with turns := [.bus 0 .ok] }, redBlueJob, 0x06#8, .symOne, rfl, ⟨rfl, rfl⟩, rfl, rfl, rfl,
    .inr ⟨0, .ok, [], rfl⟩⟩

theorem witness_StepRunsByteAtPosition_default :
    ∃ (s : State) (j : Job) (v : Byte) (i : Instr), s.port = none ∧ Sending s j ∧
      j.payload[s.pos]? = some v ∧ decode (.payloadByte v) = .ok i ∧ s.turns = [] :=
  ⟨sending 87, redBlueJob, 0x00#8, .padByte, rfl, ⟨rfl, rfl⟩, rfl, rfl, rfl⟩

/-- The overlap of two transactions, the second at its first byte. -/
def overlapping : State :=
  { sending 5 with
    busConflict := true
    parked := [⟨⟨1, redBluePayload, false, 1⟩, 0⟩]
    wire := [⟨0, redBluePayload.take 5, .running⟩, ⟨1, [], .running⟩]
    turns := [.bus 0 .ok] }

theorem witness_OverlappingBytesInterleave :
    ∃ (s : State) (j : Job) (p : Parked) (v : Byte) (i : Instr) (pick : Nat) (ev : BusEvent)
      (ts : List Turn), s.port = none ∧ Sending s j ∧ s.turns = .bus pick ev :: ts ∧
      s.parked[pick]? = some p ∧ p.job.payload[p.pos]? = some v ∧ decode (.payloadByte v) = .ok i :=
  ⟨overlapping, redBlueJob, _, 0x04#8, .symZero, 0, .ok, [], rfl, ⟨rfl, rfl⟩, rfl, rfl, rfl, rfl⟩

/-- A requester whose own transaction runs, and one whose own waits; one with nothing to place; and one that is
free, while another's runs. -/
theorem witness_RequestersIssueInOrder :
    (∃ (s : State) (n : Nat) (ts : List Turn), s.port = none ∧ s.turns = .issue n :: ts ∧
      (∃ j, s.job = some j ∧ j.requester = n) ∧ s.blocked n = true) ∧
    (∃ (s : State) (n : Nat) (ts : List Turn), s.port = none ∧ s.turns = .issue n :: ts ∧
      (∃ p ∈ s.parked, p.job.requester = n) ∧ s.blocked n = true) ∧
    (∃ (s : State) (n : Nat) (ts : List Turn), s.port = none ∧ s.turns = .issue n :: ts ∧
      (s.programs[n]? = none ∨ s.programs[n]? = some []) ∧ s.blocked n = false) ∧
    ∃ (s : State) (n : Nat) (ts : List Turn) (r : Request) (rest : List Request), s.port = none ∧
      s.turns = .issue n :: ts ∧ s.programs[n]? = some (r :: rest) ∧ s.blocked n = false ∧
      s.busy = true :=
  ⟨⟨{ sending 5 with turns := [.issue 0] }, 0, [], rfl, rfl, ⟨redBlueJob, rfl, rfl⟩, rfl⟩,
    ⟨{ overlapping with turns := [.issue 1] }, 1, [], rfl, rfl, ⟨_, List.mem_singleton_self _, rfl⟩, rfl⟩,
    ⟨{ sending 5 with turns := [.issue 1] }, 1, [], rfl, rfl, .inl rfl, rfl⟩,
    { sending 5 with turns := [.issue 1], programs := [[], [⟨0b101#3, .none⟩]] }, 1, [], _, _, rfl, rfl,
    rfl, rfl, rfl⟩

/-- With no turn left, and with a turn of each kind still laid down. -/
theorem witness_EndedRunStaysIdle :
    ∀ ts ∈ [[], [Turn.issue 0], [.bus 0 .ok]], ∃ s : State, s.turns = ts ∧ RunEnded s :=
  fun ts _ => ⟨{ idle 1 ⟨1, 1⟩ with turns := ts }, rfl, rfl, rfl, by rintro l ⟨⟩⟩

/-- A block with some framer turns laid down (the bus answers `ok`), and one with none. -/
theorem framerGoesOn_of (s : State) (ts : List Turn) (h : ts = [] ∨ ts = [.bus 0 .ok, .bus 3 .ok]) :
    FramerGoesOn { s with turns := ts } := by
  obtain rfl | rfl := h <;> intro t ht
  · cases ht
  · simp only [List.mem_cons, List.not_mem_nil, or_false] at ht
    obtain rfl | rfl := ht
    exacts [⟨0, rfl⟩, ⟨3, rfl⟩]

/-- With no turns laid down, and with the first two of the framer's. -/
theorem witness_TransactionRunsToCompletion :
    ∀ ts ∈ [[], [Turn.bus 0 .ok, .bus 3 .ok]], ∃ (s : State) (j : Job) (n : Nat), s.turns = ts ∧
      Undisturbed s ∧ Sending s j ∧ NoOverlap s ∧ s.pos = 0 ∧
      payloadWellFormed n j.payload = true ∧ s.wire[j.index]? = some ⟨j.requester, [], .running⟩ :=
  fun ts h => ⟨{ sending 0 with turns := ts }, redBlueJob, 1, rfl,
    ⟨rfl, framerGoesOn_of _ ts (by simpa using h)⟩, ⟨rfl, rfl⟩, ⟨rfl, rfl⟩, rfl, by decide, rfl⟩

theorem witness_TransferSendsPayload :
    ∀ ts ∈ [[], [Turn.bus 0 .ok, .bus 3 .ok]], ∃ (s : State) (c : CfgRegs) (p : Payload), s.turns = ts ∧
      Configured s c ∧ s.busy = false ∧ NoOverlap s ∧ FramerGoesOn s ∧
      payloadWellFormed c.ledCount p = true :=
  fun ts h => ⟨{ idle 1 ⟨1, 1⟩ with turns := ts }, cfg 1 ⟨1, 1⟩, redBluePayload, rfl, ⟨rfl, rfl⟩, rfl,
    ⟨rfl, rfl⟩, framerGoesOn_of _ ts (by simpa using h), by decide⟩

theorem witness_ShutdownClearsAndCloses :
    ∃ (s : State) (c : CfgRegs), Configured s c ∧ s.busy = false ∧ NoOverlap s ∧ FramerGoesOn s ∧
      s.platform.chainLen = c.ledCount ∧ ChainFits s ∧ ChainIdleAtStart s :=
  ⟨_, _, configured_idle 24 ⟨1, 2⟩, rfl, noOverlap_idle _ _, (by rintro t ⟨⟩), rfl, chainFits_idle _ _,
    rfl⟩

/-- For a strip of 24 LEDs, and for one of none. -/
theorem witness_ShowDisplaysScaledFrame :
    ∀ n ∈ [0, 24], ∃ (s : State) (c : CfgRegs) (f : Frame), Configured s c ∧ s.busy = false ∧
      NoOverlap s ∧ FramerGoesOn s ∧ f.length = c.ledCount ∧ s.platform.chainLen = c.ledCount ∧
      ChainFits s ∧ ChainIdleAtStart s :=
  fun n _ => ⟨_, _, List.replicate n ⟨255, 0, 128⟩, configured_idle n ⟨1, 2⟩, rfl, noOverlap_idle _ _,
    (by rintro t ⟨⟩), List.length_replicate, rfl, chainFits_idle _ _, rfl⟩

/-- The second clause: an empty strip's SHOW, a turn of another requester among those laid down, run to the end
of its transaction (the shortest there is, 64 bytes). -/
theorem witness_ShowDisplaysScaledFrame_ended :
    ∃ (t₀ t : State) (k : Nat), exec (.showFrame []) { idle 0 ⟨1, 1⟩ with turns := [.issue 1] } = .next t₀ ∧
      Host.Core.run core k t₀ = .next t ∧ TransactionEnded 0 t ∧ BusOk 0 t ∧ t.wire.length = 1 := by
  obtain ⟨t₀, h₀, -⟩ := exists_next
    (o := exec (.showFrame []) { idle 0 ⟨1, 1⟩ with turns := [.issue 1] }) (fun _ => true) (by decide)
  obtain ⟨t, h, ht⟩ := exists_next (o := Host.Core.run core 65
      (({ idle 0 ⟨1, 1⟩ with turns := [.issue 1] } : State).startTransaction
        (encodeFrame scale ⟨1, 1⟩ []) false))
    (fun t => t.wire == [⟨0, List.replicate 64 0x00#8, .complete⟩]) (by decide +kernel)
  cases h₀
  have hw : t.wire = [⟨0, List.replicate 64 0x00#8, .complete⟩] := by simpa using ht
  refine ⟨_, t, 65, rfl, h, ⟨_, by rw [hw]; rfl, by decide⟩, fun r hr => ?_, by rw [hw]; rfl⟩
  rw [hw] at hr
  cases hr
  decide

theorem witness_FirstTransactionAfterFailureResynchronises :
    ∃ (s : State) (c : CfgRegs) (f : Frame), Configured s c ∧ s.busy = false ∧ NoOverlap s ∧
      FramerGoesOn s ∧ f.length = c.ledCount ∧ s.chain.k = none :=
  ⟨(idle 1 ⟨1, 1⟩).disturbChain, cfg 1 ⟨1, 1⟩, [⟨0, 255, 0⟩], ⟨rfl, rfl⟩, rfl, ⟨rfl, rfl⟩,
    (by rintro t ⟨⟩), rfl, rfl⟩

/-- On a chain as long as the payload's, and on one longer. -/
theorem witness_RepeatedPayloadLeavesDisplay :
    ∀ len ∈ [1, 2], ∃ (n : Nat) (p : Payload) (c : Chain), payloadWellFormed n p = true ∧
      c.k = some 0 ∧ c.shadow.length = 24 * len ∧ c.display.length = len :=
  fun len _ => ⟨1, redBluePayload, (idle len ⟨1, 1⟩).chain, by decide, rfl, List.length_replicate,
    List.length_replicate⟩

/-- A payload for no LEDs and one for one LED (PeriodsPerTransaction, LineCarriesDataBits,
OnlyResetBlockIsLongLow). -/
theorem witness_PeriodsPerTransaction :
    payloadWellFormed 0 (List.replicate 64 0x00#8) = true ∧
      payloadWellFormed 1 redBluePayload = true := by decide

theorem witness_LineCarriesDataBits : ∃ (n : Nat) (p : Payload), payloadWellFormed n p = true :=
  ⟨1, redBluePayload, by decide⟩

theorem witness_OnlyResetBlockIsLongLow : ∃ (n : Nat) (p : Payload), payloadWellFormed n p = true :=
  ⟨1, redBluePayload, by decide⟩

/-- In every mode, at both ends of the range of RESET_UNITS. -/
theorem witness_BitLevelChainAgrees :
    ∀ m r, (m, r) ∈ [(WireMode.w8Msb, 8), (.w8Msb, 512), (.w8Lsb, 8), (.w8Lsb, 512), (.w3Msb, 3),
      (.w3Msb, 192)] → ∃ (pl : Platform) (n low : Nat) (p : Payload) (c : Chain),
        pl.wireMode = m ∧ pl.resetUnits = r ∧ resetSuffices pl = true ∧
        payloadWellFormed n p = true ∧ pl.resetUnits ≤ low ∧ c.k = some 0 := by
  intro m r h
  refine ⟨⟨m, r, 1, []⟩, 1, r, redBluePayload, (idle 1 ⟨1, 1⟩).chain, rfl, rfl, ?_, by decide, le_rfl, rfl⟩
  simp only [List.mem_cons, Prod.mk.injEq, List.not_mem_nil, or_false] at h
  obtain ⟨rfl, rfl⟩ | ⟨rfl, rfl⟩ | ⟨rfl, rfl⟩ | ⟨rfl, rfl⟩ | ⟨rfl, rfl⟩ | ⟨rfl, rfl⟩ := h <;> decide

/-- The invariant holds of an open idle block. -/
theorem inv_idle : Inv (idle 1 ⟨1, 1⟩) := by
  refine ⟨⟨fun _ => ⟨rfl, rfl, rfl⟩, fun h => (by cases h), (by rintro p ⟨⟩), ⟨rfl, rfl⟩, fun h => absurd rfl h⟩,
    ⟨fun _ => rfl, ?_⟩, ⟨fun _ j h => (by cases h), fun _ i r h => (by cases h)⟩, chainFits_idle _ _⟩
  rintro c ⟨⟩
  decide

/-- The invariant holds of a block that sends, at its last byte. -/
theorem inv_sending : Inv (sending 87) := by
  refine ⟨⟨fun h => (by cases h), fun _ => ⟨redBlueJob, rfl, ⟨_, rfl, by decide⟩, by decide⟩,
    (by rintro p ⟨⟩), ⟨rfl, rfl⟩, fun h => absurd rfl h⟩, ⟨fun _ => rfl, ?_⟩, ⟨?_, ?_⟩, ?_⟩
  · rintro c ⟨⟩
    decide
  · rintro _ j ⟨⟩
    exact ⟨rfl, rfl⟩
  · intro _ i r h hi
    cases i with
    | zero => exact absurd rfl (hi redBlueJob rfl)
    | succ i => cases h
  · exact ⟨by decide, by decide⟩

theorem witness_StepKeepsInvariant :
    (∃ s t : State, Inv s ∧ step s = .next t ∧ s.busy = true ∧ t.busy = false) ∧
      ∃ s t : State, Inv s ∧ step s = .next t ∧ s.busy = false := by
  obtain ⟨t, h, ht⟩ := exists_next (o := step (sending 87)) (fun t => !t.busy) (by decide)
  exact ⟨⟨_, t, inv_sending, h, rfl, by simpa using ht⟩, idle 1 ⟨1, 1⟩, _, inv_idle, rfl, rfl⟩

/-- A step after an overlap; and the step that makes one. -/
theorem witness_BusConflictIsSticky :
    (∃ s t : State, step s = .next t ∧ s.busConflict = true) ∧
      ∃ s t : State, step s = .next t ∧ s.busConflict = false ∧ t.busConflict = true := by
  obtain ⟨t, h, -⟩ := exists_next (o := step overlapping) (fun _ => true) (by decide)
  obtain ⟨t', h', ht'⟩ := exists_next
    (o := step { sending 5 with port := some ⟨1, 0b101#3, .none⟩ }) (·.busConflict) (by decide)
  exact ⟨⟨_, t, h, rfl⟩, _, t', h', rfl, ht'⟩

theorem witness_ConfigurationIsConstant :
    ∃ (s t : State) (c : CfgRegs), step s = .next t ∧ s.cfg = some c := by
  obtain ⟨t, h, -⟩ := exists_next (o := step (sending 0)) (fun _ => true) (by decide)
  exact ⟨_, t, _, h, rfl⟩

/-- INIT opens; the last byte of a SHUTDOWN closes. -/
theorem witness_OnlyInitOpensOnlyShutdownCloses :
    (∃ s t : State, step s = .next t ∧ s.opened = false ∧ t.opened = true) ∧
      ∃ s t : State, step s = .next t ∧ s.opened = true ∧ t.opened = false := by
  obtain ⟨t, h, ht⟩ := exists_next (o := step { State.powerOn (platform 1) with
    port := some ⟨0, 0b000#3, .config ⟨1, 1, 1, some 9, ⟨1, 1⟩⟩⟩ }) (·.opened) (by decide)
  obtain ⟨t', h', ht'⟩ := exists_next
    (o := step { sending 87 with job := some ⟨0, redBluePayload, true, 0⟩ }) (fun t => !t.opened)
    (by decide)
  exact ⟨⟨_, t, h, rfl, ht⟩, _, t', h', rfl, by simpa using ht'⟩

/-- A record that has ended stands before the running one. -/
theorem witness_EndedRecordsNeverChange :
    ∃ (s t : State) (i : Nat) (r : Record), Inv s ∧ s.busConflict = false ∧ step s = .next t ∧
      s.wire[i]? = some r ∧ r.mark ≠ .running := by
  refine ⟨{ idle 1 ⟨1, 1⟩ with wire := [⟨0, redBluePayload, .complete⟩] }, _, 0, _, ?_, rfl, rfl, rfl,
    by decide⟩
  refine ⟨⟨fun _ => ⟨rfl, rfl, rfl⟩, fun h => (by cases h), (by rintro p ⟨⟩), ⟨rfl, rfl⟩, fun h => absurd rfl h⟩,
    ⟨fun _ => rfl, ?_⟩, ⟨fun _ j h => (by cases h), ?_⟩, chainFits_idle 1 ⟨1, 1⟩⟩
  · rintro c ⟨⟩
    decide
  · intro _ i r h _
    cases i with
    | zero => cases h; decide
    | succ i => cases h

/-- A step that lengthens WIRE, for each of the three operations. -/
theorem witness_EndedRecordsNeverChange_lengthens :
    ∀ q ∈ [Port.mk 0 0b011#3 (.payload (redBluePayload.map fun v => (v.toNat : Int))),
      ⟨0, 0b100#3, .frame [⟨1, 2, 3⟩]⟩, ⟨0, 0b101#3, .none⟩],
      ∃ s t : State, s.port = some q ∧ step s = .next t ∧ s.wire.length < t.wire.length := by
  intro q hq
  obtain ⟨t, h, ht⟩ := exists_next (o := step { idle 1 ⟨1, 1⟩ with port := some q })
    (fun t => t.wire.length == 1) (by revert q; decide)
  exact ⟨_, t, rfl, h, by rw [beq_iff_eq.1 ht]; exact Nat.one_pos⟩

theorem witness_DisplayChangesOnlyAtTransactionEnd :
    ∃ s t : State, step s = .next t ∧ t.busConflict = false ∧ t.status = none ∧ s.busy = true := by
  obtain ⟨t, h, ht⟩ := exists_next (o := step (sending 86))
    (fun t => !t.busConflict && t.status.isNone) (by decide)
  simp only [Bool.and_eq_true, Bool.not_eq_true', Option.isNone_iff_eq_none] at ht
  exact ⟨_, t, h, ht.1, ht.2, rfl⟩

/-- A transaction ends; and one begins. -/
theorem witness_BusyRisesAndFallsWithTransactions :
    (∃ s t : State, Inv s ∧ step s = .next t ∧ s.busy = true ∧ t.busy = false) ∧
      ∃ s t : State, Inv s ∧ step s = .next t ∧ s.busy = false ∧ t.busy = true := by
  refine ⟨witness_StepKeepsInvariant.1, ?_⟩
  obtain ⟨t, h, ht⟩ := exists_next (o := step (asking 1 ⟨1, 1⟩ 0b101#3 .none)) (·.busy) (by decide)
  refine ⟨_, t, ?_, h, rfl, ht⟩
  obtain ⟨⟨h1, h2, h3, h4, h5⟩, ⟨h6, h7⟩, ⟨h8, h9⟩, h10⟩ := inv_idle
  exact ⟨⟨h1, h2, h3, h4, h5⟩, ⟨h6, h7⟩, ⟨h8, h9⟩, h10⟩

end Sys2Proof.Tests
end

section
/-! The configuration and the platform over every step (R9, R16): what one effect does to them, then what a
step does. -/

namespace Sys2Proof.Machine

/-- Before any INIT succeeded CFG has no value (R16, R81). -/
theorem cfg_eq_none_of_not_initDone {s : State} (h : s.initDone = false) : s.cfg = none := by
  simpa using (Bool.or_eq_false_iff.1 h).2

theorem afterByte_keeps (j : Job) (s : State) : Keeps s (s.afterByte j) := by
  obtain ⟨-, h⟩ | ⟨-, h⟩ := afterByte_cases j s <;> rw [h]
  · exact .refl s
  · exact (completeTransaction_frame j s).1

theorem issue_platform_cfg (n : Nat) (s : State) :
    (s.issue n).platform = s.platform ∧ (s.issue n).cfg = s.cfg := by
  obtain h | ⟨r, rest, -, -, h⟩ := issue_cases n s <;> rw [h] <;> exact ⟨rfl, rfl⟩

/-- No effect changes the platform, and only the success of a first INIT writes CFG. -/
theorem effect_platform_cfg {s t : State} (h : Effect s t) :
    t.platform = s.platform ∧ (t.cfg = s.cfg ∨ s.initDone = false) := by
  have ofKeeps {u : State} (hk : Keeps s u) :
      u.platform = s.platform ∧ (u.cfg = s.cfg ∨ s.initDone = false) :=
    ⟨hk.platform, .inl hk.cfg⟩
  cases h with
  | configure n b d v hd => exact ⟨rfl, .inr hd⟩
  | answer | quiet => exact ofKeeps ⟨rfl, rfl, rfl, rfl, rfl⟩
  | startupError d => exact ofKeeps (raiseFault_frame _ _ s).1
  | start c p cl =>
    obtain ⟨hplatform, hcfg, -⟩ := startTransaction_frame p cl s
    exact ⟨hplatform, .inl hcfg⟩
  | byte v j => exact ofKeeps ((emit_frame v j s).1.trans (afterByte_keeps j _))
  | failBefore j c => exact ofKeeps (failTransaction_frame j c s).1
  | failAfter v j c => exact ofKeeps ((emit_frame v j s).1.trans (failTransaction_frame j c _).1)
  | complete j => exact ofKeeps (completeTransaction_frame j s).1
  | issue n =>
    obtain ⟨hplatform, hcfg⟩ := issue_platform_cfg n s
    exact ⟨hplatform, .inl hcfg⟩

/-- Settles O56: a step prepares a state with the same configuration and platform and applies one effect to
it, and the one effect that writes CFG needs CFG to have no value. -/
theorem configurationIsConstant : Obligations.ConfigurationIsConstant := by
  intro s t h
  obtain ⟨s', hprepared, heffect⟩ := step_effect h
  obtain ⟨hplatform, hcfg, -⟩ := prepared_frame hprepared
  obtain ⟨hplatform', hcfg'⟩ := effect_platform_cfg heffect
  refine ⟨fun c hc => ?_, hplatform'.trans hplatform⟩
  obtain hsame | hfirst := hcfg'
  · rw [hsame, hcfg, hc]
  · simp [cfg_eq_none_of_not_initDone hfirst, hc] at hcfg

end Sys2Proof.Machine
end

section
/-! Transactions over one step: how an operation on the bus ends, and the six ways a step can move the block.
The claims about busy, opened, WIRE, the LEDs and the invariant are case splits over these six. -/

namespace Sys2Proof.Machine

/-! ### The chain's stores -/

theorem chainFits_disturbChain (s : State) : ChainFits s.disturbChain := by simp [ChainFits]

/-- A latch writes the chain alone, and keeps the sizes of its stores. -/
theorem latchChain_eq (s : State) : ∃ c, s.latchChain = { s with chain := c, draws := s.draws + 1 } ∧
    (ChainFits s → ChainFits { s with chain := c }) := by
  unfold State.latchChain
  split
  · exact ⟨_, rfl, fun _ => chainFits_disturbChain s⟩
  · refine ⟨_, rfl, fun h => ?_⟩
    obtain ⟨hshadow, hdisplay⟩ := h
    exact ⟨by simpa using hshadow, latch_display_length _ _ _ hdisplay⟩

theorem chainFits_emit {v : Byte} (j : Job) {s : State} (hv : isCodeByte v = true) (h : ChainFits s) :
    ChainFits (s.emit v j) := by
  rw [emit_eq v j s hv]
  split
  · exact chainFits_disturbChain _
  · obtain ⟨hshadow, hdisplay⟩ := h
    exact ⟨by simpa [State.byteOut] using hshadow, by simpa [State.byteOut] using hdisplay⟩

/-- A byte that goes out changes no LED as long as nothing overlapped (R24). -/
theorem emit_display {v : Byte} (j : Job) {s : State} (hv : isCodeByte v = true)
    (hc : s.busConflict = false) : (s.emit v j).chain.display = s.chain.display := by
  rw [emit_eq_sent v j s hv hc]
  exact takeByte_display _ v s.chain

/-! ### The end of an operation -/

/-- In `e` the operation `j`, which has the line in `s`, has ended, and the framer has still to leave it. -/
structure Concluded (j : Job) (s e : State) : Prop where
  job : s.job = some j
  keeps : Keeps s e
  opened : e.opened = (s.opened && !j.closing)
  busy : e.busy = s.busy
  parked : e.parked = s.parked
  status : e.status ≠ none
  wireLength : e.wire.length = s.wire.length
  otherRecords : ∀ i, i ≠ j.index → e.wire[i]? = s.wire[i]?
  ownRecord : ∀ r, e.wire[j.index]? = some r → r.mark ≠ .running
  chain : ChainFits s → ChainFits e

theorem concluded_markEnd {j : Job} {s : State} {m : Mark} (st : Status) (hj : s.job = some j)
    (hm : m ≠ .running) : Concluded j s (s.markEnd j m st) where
  job := hj
  keeps := ⟨rfl, rfl, rfl, rfl, rfl⟩
  opened := rfl
  busy := rfl
  parked := rfl
  status := by simp
  wireLength := by simp
  otherRecords i hi := setMark_getElem?_ne m s.wire hi
  ownRecord r hr := by
    rw [State.markEnd_wire, setMark_getElem?_self] at hr
    obtain ⟨r', -, rfl⟩ := Option.map_eq_some_iff.1 hr
    exact hm
  chain h := h

/-- The chain and the ports have no part in whether an operation has ended. -/
theorem Concluded.answer {j : Job} {s e : State} (h : Concluded j s e) (c : Chain) (d : Nat)
    (p : Option Port) (r : Option Response) (hc : ChainFits e → ChainFits { e with chain := c }) :
    Concluded j s { e with chain := c, draws := d, port := p, res := r } :=
  { h with keeps := { h.keeps with }, chain := fun hs => hc (h.chain hs) }

/-- A complete transaction has ended when the framer leaves it (R87). -/
theorem completeTransaction_concluded {j : Job} {s : State} (hj : s.job = some j) :
    ∃ e, s.completeTransaction j = e.releaseFramer ∧ Concluded j s e := by
  obtain ⟨c, hlatch, hfits⟩ := latchChain_eq (s.markEnd j .complete s.completionStatus)
  refine ⟨_, rfl, ?_⟩
  rw [hlatch]
  exact (concluded_markEnd _ hj (by decide)).answer c _ _ _ hfits

/-- A failed transaction has ended when the framer leaves it (R88). -/
theorem failTransaction_concluded {j : Job} {s : State} (c : Nat) (hj : s.job = some j) :
    ∃ e, s.failTransaction j c = e.releaseFramer ∧ Concluded j s e :=
  ⟨_, rfl, (concluded_markEnd (m := .failed) (.transferError c) hj (by decide)).answer _ _ _ _
    fun _ => chainFits_disturbChain (s.markEnd j .failed (.transferError c))⟩

/-- An operation that ends right after a byte ends in the step that sends the byte. -/
theorem Concluded.of_emit {v : Byte} {j : Job} {s e : State} (hv : isCodeByte v = true)
    (h : Concluded j (s.emit v j) e) : Concluded j s e := by
  obtain ⟨hkeeps, hopened, hbusy, -, hjob, hwire, -, -, hparked⟩ := emit_frame v j s
  exact
    { h with
      job := hjob ▸ h.job
      keeps := hkeeps.trans h.keeps
      opened := hopened ▸ h.opened
      busy := h.busy.trans hbusy
      parked := h.parked.trans hparked
      wireLength := by rw [h.wireLength, hwire, appendByte_length]
      otherRecords := fun i hi => by rw [h.otherRecords i hi, hwire, appendByte_getElem?_ne v _ hi]
      chain := fun hs => h.chain (chainFits_emit j hv hs) }

/-- A framer that is idle after it left an operation has nothing on the line (R20). -/
theorem releaseFramer_idle {s : State} (hb : s.busy = true) (h : s.releaseFramer.busy = false) :
    s.releaseFramer.pos = 0 ∧ s.releaseFramer.sdo = false := by
  cases hp : s.parked with
  | nil => simp [releaseFramer_eq_idle s hp]
  | cons p ps =>
    rw [releaseFramer_eq_next s p ps hp] at h
    exact absurd hb (ne_true_of_eq_false h)

/-! ### The six ways a step moves the block -/

/-- What a step does to the block, with all ends of an operation taken together. -/
inductive Move (s : State) : State → Prop where
  /-- only the ports and the requesters' lists change -/
  | outside (p : Option Port) (r : Option Response) (ps : List (List Request)) :
      Move s { s with port := p, res := r, programs := ps }
  /-- INIT succeeds -/
  | configure (n : Nat) (b : Ratio) (d : DeviceName) (v : Ratio) (hd : s.initDone = false)
      (hb : b.isBrightness = true) (hv : v.isRate = true) :
      Move s (State.respond
        { s with cfg := some ⟨n, b, d, v⟩, opened := true, busy := false, pos := 0, sdo := false }
        (.status .ok))
  /-- INIT fails -/
  | startupError (d : Option DeviceName) (hd : s.initDone = false) :
      Move s (s.raiseFault s.caller (.startupError d))
  /-- TRANSFER, SHOW or SHUTDOWN is accepted -/
  | start (c : CfgRegs) (p : Payload) (cl : Bool) (hc : s.operative = some c)
      (hp : payloadWellFormed c.ledCount p = true)
      (hq : ∃ q, s.port = some q ∧ (q.op = 0b011#3 ∨ q.op = 0b100#3 ∨ q.op = 0b101#3)) :
      Move s (s.startTransaction p cl)
  /-- a byte goes out that is not the last -/
  | byteOut (v : Byte) (j : Job) (hv : isCodeByte v = true) (hj : Sending s j)
      (hp : j.payload[s.pos]? = some v) (hmore : s.pos + 1 < j.payload.length) : Move s (s.emit v j)
  /-- the operation on the line ends, complete or failed, before or after a byte -/
  | ended (j : Job) (e : State) (h : Concluded j s e) : Move s e.releaseFramer

theorem issue_move (n : Nat) (s : State) : Move s (s.issue n) := by
  obtain h | ⟨r, rest, -, -, h⟩ := issue_cases n s <;> rw [h]
  · exact .outside s.port s.res s.programs
  · exact .outside _ s.res _

theorem effect_move {s t : State} (h : Effect s t) : Move s t := by
  have ends {u : State} (j : Job) (hu : ∃ e, u = e.releaseFramer ∧ Concluded j s e) : Move s u := by
    obtain ⟨e, rfl, he⟩ := hu
    exact .ended j e he
  have emitted (v : Byte) {j : Job} (hj : Sending s j) : (s.emit v j).job = some j := by
    obtain ⟨-, -, -, -, hjob, -⟩ := emit_frame v j s
    exact hjob.trans hj.2
  cases h with
  | answer r => exact .outside none _ s.programs
  | configure n b d v hd hb hv => exact .configure n b d v hd hb hv
  | startupError d hd => exact .startupError d hd
  | start c p cl hc hp hq => exact .start c p cl hc hp hq
  | byte v j hv hj hp =>
    obtain ⟨hmore, h⟩ | ⟨-, h⟩ := afterByte_cases j (s.emit v j) <;> rw [h]
    · obtain ⟨-, -, -, hpos, -⟩ := emit_frame v j s
      exact .byteOut v j hv hj hp (hpos ▸ hmore)
    · obtain ⟨e, he, hc⟩ := completeTransaction_concluded (emitted v hj)
      exact ends j ⟨e, he, hc.of_emit hv⟩
  | failBefore j c hj => exact ends j (failTransaction_concluded c hj.2)
  | failAfter v j c hv hj =>
    obtain ⟨e, he, hc⟩ := failTransaction_concluded c (emitted v hj)
    exact ends j ⟨e, he, hc.of_emit hv⟩
  | complete j hj => exact ends j (completeTransaction_concluded hj)
  | issue n => exact issue_move n s
  | quiet => exact .outside s.port s.res s.programs

/-- Every step is one move, from one of the prepared states. -/
theorem step_move {s t : State} (h : step s = .next t) : ∃ s', Prepared s s' ∧ Move s' t := by
  obtain ⟨s', hprepared, heffect⟩ := step_effect h
  exact ⟨s', hprepared, effect_move heffect⟩

theorem prepared_port {s s' : State} (h : Prepared s s') : s'.port = s.port := by
  cases h with
  | busTurn pick ev ts => unfold State.selectJob; split <;> rfl
  | _ => rfl

/-- The operation that has the line when the move begins had it before, or waited for it. -/
theorem prepared_job {s s' : State} {j : Job} (h : Prepared s s') (hj : s'.job = some j) :
    s.job = some j ∨ ∃ p ∈ s.parked, p.job = j := by
  cases h with
  | busTurn pick ev ts => exact selectJob_job (s := { s.tick with turns := ts }) hj
  | _ => exact .inl hj

end Sys2Proof.Machine
end

section
/-! The invariant over every step (R16 to R24, R36): what the framer can leave, what a step prepares, and the
six moves. -/

namespace Sys2Proof.Machine

/-- Settles O53: after block reset the framer is idle, WIRE is empty and CFG has no value. -/
theorem blockResetMeetsInvariant : Obligations.BlockResetMeetsInvariant := by
  intro p
  exact
    { framer :=
        { idle := fun _ => ⟨rfl, rfl, rfl⟩
          working := nofun
          waiting := nofun
          lineLow := ⟨rfl, rfl⟩
          overlapMarked := fun h => absurd rfl h }
      config := ⟨nofun, nofun⟩
      wire := ⟨nofun, nofun⟩
      chain := ⟨unspecified_shadow_length 0 p.chainLen, unspecified_display_length 0 p.chainLen⟩ }

/-! ### Facts about the parts of the invariant -/

/-- The invariant says nothing of the ports, the status, the requesters, the turns and the bus. -/
theorem Inv.outside {s : State} (h : Inv s) (p : Option Port) (r : Option Response)
    (st : Option Status) (ps : List (List Request)) (ts : List Turn) (b : BusEvent) :
    Inv { s with port := p, res := r, status := st, programs := ps, turns := ts, bus := b } :=
  ⟨{ h.framer with }, { h.config with }, { h.wire with }, h.chain⟩

/-- Nothing runs before INIT. -/
theorem Inv.idle_of_not_initDone {s : State} (h : Inv s) (hd : s.initDone = false) :
    s.busy = false := by
  by_contra hb
  obtain ⟨j, -, ⟨c, hc, -⟩, -⟩ := h.framer.working (by simpa using hb)
  simp [cfg_eq_none_of_not_initDone hd] at hc

/-- An operation that has the line keeps the framer busy. -/
theorem Inv.busy_of_job {s : State} {j : Job} (h : Inv s) (hj : s.job = some j) : s.busy = true := by
  by_contra hb
  obtain ⟨-, hjob, -⟩ := h.framer.idle (by simpa using hb)
  simp [hj] at hjob

theorem Inv.inTransit {s : State} {j : Job} (h : Inv s) (hj : s.job = some j) :
    InTransit s j s.pos := by
  obtain ⟨j', hj', htransit⟩ := h.framer.working (h.busy_of_job hj)
  rw [hj] at hj'
  cases hj'
  exact htransit

/-- While the framer is idle every record has ended (R36). -/
theorem Inv.ended_of_idle {s : State} (h : Inv s) (hb : s.busy = false)
    (hc : s.busConflict = false) {i : Nat} {r : Record} (hr : s.wire[i]? = some r) :
    r.mark ≠ .running := by
  obtain ⟨-, hjob, -⟩ := h.framer.idle hb
  exact h.wire.ended hc i r hr (by simp [hjob])

/-- A new record leaves every other place of WIRE as it was. -/
theorem getElem?_concat_of_ne {w : List Record} {r : Record} {i : Nat} (h : i ≠ w.length) :
    (w ++ [r])[i]? = w[i]? := by
  obtain hlt | hgt := Nat.lt_or_gt_of_ne h
  · exact List.getElem?_append_left hlt
  · rw [List.getElem?_eq_none (by simpa using hgt), List.getElem?_eq_none hgt.le]

/-- WIRE is claimed nothing of after an overlap (R42, R95). -/
theorem wireInv_of_overlap {s : State} (h : s.busConflict = true) : WireInv s :=
  ⟨by simp [h], by simp [h]⟩

/-- A payload in transit is so by CFG alone. -/
theorem InTransit.of_cfg {s t : State} {j : Job} {n : Nat} (hcfg : t.cfg = s.cfg)
    (h : InTransit s j n) : InTransit t j n := by
  obtain ⟨⟨c, hc, hp⟩, hn⟩ := h
  exact ⟨⟨c, hcfg.trans hc, hp⟩, hn⟩

/-- An accepted payload has bytes to send. -/
theorem inTransit_of_wellFormed {s : State} {c : CfgRegs} {j : Job} (hc : s.cfg = some c)
    (hp : payloadWellFormed c.ledCount j.payload = true) : InTransit s j 0 :=
  ⟨⟨c, hc, hp⟩, by rw [payloadWellFormed_length hp]; omega⟩

/-- A block that keeps CFG and does not open keeps what is said of both. -/
theorem ConfigInv.of_cfg {s t : State} (h : ConfigInv s) (hcfg : t.cfg = s.cfg)
    (ho : t.opened = true → s.opened = true) : ConfigInv t :=
  ⟨fun h' => hcfg ▸ h.openedHasCfg (ho h'), fun c hc => h.legal c (hcfg ▸ hc)⟩

/-! ### The framer leaves an operation -/

/-- What must hold for the framer to leave its operation with the invariant. -/
structure Leavable (s : State) : Prop where
  waiting : ∀ p ∈ s.parked, InTransit s p.job p.pos
  overlapMarked : s.parked ≠ [] → s.busConflict = true ∧ s.busy = true
  config : ConfigInv s
  ended : s.busConflict = false → ∀ (i : Nat) (r : Record), s.wire[i]? = some r → r.mark ≠ .running
  chain : ChainFits s

theorem releaseFramer_inv {s : State} (h : Leavable s) : Inv s.releaseFramer := by
  cases hp : s.parked with
  | nil =>
    rw [releaseFramer_eq_idle s hp]
    exact
      { framer :=
          { idle := fun _ => ⟨rfl, rfl, hp⟩
            working := nofun
            waiting := fun p hq => absurd hq (by simp [hp])
            lineLow := ⟨rfl, rfl⟩
            overlapMarked := fun h' => absurd hp h' }
        config := { h.config with }
        wire := ⟨nofun, fun hc i r hr _ => h.ended hc i r hr⟩
        chain := h.chain }
  | cons p ps =>
    obtain ⟨hconflict, hbusy⟩ := h.overlapMarked (by simp [hp])
    rw [releaseFramer_eq_next s p ps hp]
    exact
      { framer :=
          { idle := fun hb => absurd hbusy (ne_true_of_eq_false hb)
            working := fun _ => ⟨p.job, rfl, h.waiting p (by simp [hp])⟩
            waiting := fun q hq => h.waiting q (by simp [hp, show q ∈ ps from hq])
            lineLow := ⟨rfl, rfl⟩
            overlapMarked := fun _ => hconflict }
        config := { h.config with }
        wire := wireInv_of_overlap hconflict
        chain := h.chain }

/-- An operation that has ended can be left: every other record had ended before. -/
theorem Concluded.leavable {j : Job} {s e : State} (hs : Inv s) (h : Concluded j s e) : Leavable e where
  waiting p hp := (hs.framer.waiting p (h.parked ▸ hp)).of_cfg h.keeps.cfg
  overlapMarked hp :=
    ⟨h.keeps.busConflict.trans (hs.framer.overlapMarked (h.parked ▸ hp)),
      h.busy.trans (hs.busy_of_job h.job)⟩
  config := hs.config.of_cfg h.keeps.cfg fun ho => by
    rw [h.opened, Bool.and_eq_true] at ho
    exact ho.1
  ended hc i r hr := by
    by_cases hi : i = j.index
    · exact h.ownRecord r (hi ▸ hr)
    · refine hs.wire.ended (h.keeps.busConflict ▸ hc) i r (h.otherRecords i hi ▸ hr) fun j' hj' => ?_
      obtain rfl := Option.some.inj (h.job.symm.trans hj')
      exact hi
  chain := h.chain hs.chain

/-- A framer that is idle can be left. -/
theorem Inv.leavable_of_idle {s : State} (h : Inv s) (hb : s.busy = false) : Leavable s where
  waiting := h.framer.waiting
  overlapMarked hp := by
    obtain ⟨-, -, hparked⟩ := h.framer.idle hb
    exact absurd hparked hp
  config := h.config
  ended hc _ _ hr := h.ended_of_idle hb hc hr
  chain := h.chain

/-! ### The states a move starts from -/

/-- The operations on the line and those that wait are in transit, whichever of them has the line. -/
theorem selectJob_inv {s : State} (pick : Nat) (h : Inv s) : Inv (s.selectJob pick) := by
  unfold State.selectJob
  split
  · next j p hj hp =>
    have hwaits : p ∈ s.parked := List.mem_of_getElem? hp
    have hconflict := h.framer.overlapMarked (List.ne_nil_of_mem hwaits)
    exact
      { framer :=
          { idle := fun hb => absurd (h.busy_of_job hj) (ne_true_of_eq_false hb)
            working := fun _ => ⟨p.job, rfl, h.framer.waiting p hwaits⟩
            waiting := fun q hq => by
              obtain hq | rfl := List.mem_or_eq_of_mem_set hq
              · exact h.framer.waiting q hq
              · exact h.inTransit hj
            lineLow := h.framer.lineLow
            overlapMarked := fun _ => hconflict }
        config := { h.config with }
        wire := wireInv_of_overlap hconflict
        chain := h.chain }
  · exact h

theorem prepared_inv {s s' : State} (h : Prepared s s') (hs : Inv s) : Inv s' := by
  have ticked (ts : List Turn) (b : BusEvent) : Inv { s.tick with turns := ts, bus := b } :=
    hs.outside s.port none none s.programs ts b
  cases h with
  | request p | idle => exact ticked s.turns s.bus
  | framer => exact ticked s.turns .ok
  | turn t ts => exact ticked ts s.bus
  | busTurn pick ev ts => exact (selectJob_inv pick (ticked ts s.bus)).outside _ _ _ _ _ ev

/-! ### The moves -/

theorem configure_inv {s : State} {n : Nat} {b : Ratio} {d : DeviceName} {v : Ratio} (hs : Inv s)
    (hd : s.initDone = false) (hb : b.isBrightness = true) (hv : v.isRate = true) :
    Inv (State.respond
      { s with cfg := some ⟨n, b, d, v⟩, opened := true, busy := false, pos := 0, sdo := false }
      (.status .ok)) := by
  obtain ⟨-, hjob, hparked⟩ := hs.framer.idle (hs.idle_of_not_initDone hd)
  exact
    { framer :=
        { idle := fun _ => ⟨rfl, hjob, hparked⟩
          working := nofun
          waiting := fun p hp => absurd (hparked ▸ hp) (by simp)
          lineLow := ⟨rfl, hs.framer.lineLow.2⟩
          overlapMarked := hs.framer.overlapMarked }
      config := ⟨fun _ => rfl, by rintro c ⟨⟩; exact ⟨hb, hv⟩⟩
      wire := ⟨by simp [hjob], hs.wire.ended⟩
      chain := hs.chain }

theorem raiseFault_inv {s : State} (n : Nat) (st : Status) (hs : Inv s) (hb : s.busy = false) :
    Inv (s.raiseFault n st) :=
  releaseFramer_inv ((hs.outside none (some ⟨n, .status st⟩) s.status s.programs s.turns
    s.bus).leavable_of_idle hb)

theorem operative_eq_some {s : State} {c : CfgRegs} : s.operative = some c ↔ Configured s c := by
  simp [State.operative, Configured]

theorem beginTransaction_inv {s : State} {c : CfgRegs} {p : Payload} (cl : Bool) (hs : Inv s)
    (hb : s.busy = false) (hc : s.cfg = some c) (hp : payloadWellFormed c.ledCount p = true) :
    Inv (s.beginTransaction p cl) := by
  obtain ⟨-, -, hparked⟩ := hs.framer.idle hb
  obtain ⟨hlow, -⟩ := hs.framer.lineLow
  exact
    { framer :=
        { idle := nofun
          working := fun _ => ⟨_, rfl, inTransit_of_wellFormed hc hp⟩
          waiting := fun q hq => absurd (hparked ▸ hq) (by simp)
          lineLow := ⟨hlow, rfl⟩
          overlapMarked := fun h => absurd hparked h }
      config := { hs.config with }
      wire :=
        { current := by rintro - j ⟨⟩; simp
          ended := fun hconflict i r hr hi => by
            rw [State.beginTransaction_wire, getElem?_concat_of_ne (hi _ rfl)] at hr
            exact hs.ended_of_idle hb hconflict hr }
      chain := hs.chain }

theorem overlapTransaction_inv {s : State} {c : CfgRegs} {p : Payload} (cl : Bool) (hs : Inv s)
    (hb : s.busy = true) (hc : s.cfg = some c) (hp : payloadWellFormed c.ledCount p = true) :
    Inv (s.overlapTransaction p cl) where
  framer :=
    { idle := fun h => absurd hb (ne_true_of_eq_false h)
      working := hs.framer.working
      waiting := fun q hq => by
        rw [State.overlapTransaction_parked, List.mem_append, List.mem_singleton] at hq
        obtain hq | rfl := hq
        · exact hs.framer.waiting q hq
        · exact inTransit_of_wellFormed hc hp
      lineLow := hs.framer.lineLow
      overlapMarked := fun _ => rfl }
  config := { hs.config with }
  wire := wireInv_of_overlap rfl
  chain := chainFits_disturbChain _

/-- After a byte the line is low again and no bit of the next byte is out (log entries 29 and 31). -/
theorem emit_lineLow {v : Byte} (j : Job) (s : State) (hv : isCodeByte v = true) :
    (s.emit v j).sdo = false ∧ (s.emit v j).q = 0 := by
  rw [emit_eq v j s hv]
  split <;> exact ⟨rfl, rfl⟩

/-- The running record holds the bytes sent so far, this one included (R21). -/
theorem emit_wireInv {s : State} {j : Job} {v : Byte} (hs : WireInv s) (hj : s.job = some j)
    (hp : j.payload[s.pos]? = some v) : WireInv (s.emit v j) := by
  obtain ⟨hkeeps, -, -, hpos, hjob, hwire, -⟩ := emit_frame v j s
  refine ⟨fun hc j' hj' => ?_, fun hc i r hr hi => ?_⟩
  · obtain rfl := Option.some.inj ((hjob.trans hj).symm.trans hj')
    obtain ⟨hlast, hrecord⟩ := hs.current (hkeeps.busConflict ▸ hc) j hj
    refine ⟨by rw [hwire, appendByte_length, hlast], ?_⟩
    simp [hwire, hpos, appendByte_getElem?_self, hrecord, List.take_add_one, hp]
  · have hne := hi j (hjob.trans hj)
    rw [hwire, appendByte_getElem?_ne v _ hne] at hr
    exact hs.ended (hkeeps.busConflict ▸ hc) i r hr fun j' hj' => hi j' (hjob.trans hj')

theorem emit_inv {s : State} {j : Job} {v : Byte} (hs : Inv s) (hv : isCodeByte v = true)
    (hj : Sending s j) (hp : j.payload[s.pos]? = some v) (hmore : s.pos + 1 < j.payload.length) :
    Inv (s.emit v j) := by
  obtain ⟨hkeeps, hopened, hbusy, hpos, hjob, -, -, -, hparked⟩ := emit_frame v j s
  obtain ⟨hbusy', hjob'⟩ := hj
  obtain ⟨hshape, -⟩ := hs.inTransit hjob'
  exact
    { framer :=
        { idle := fun hb => absurd (hbusy.trans hbusy') (ne_true_of_eq_false hb)
          working := fun _ =>
            ⟨j, hjob.trans hjob', InTransit.of_cfg hkeeps.cfg ⟨hshape, hpos ▸ hmore⟩⟩
          waiting := fun q hq => (hs.framer.waiting q (hparked ▸ hq)).of_cfg hkeeps.cfg
          lineLow := emit_lineLow j s hv
          overlapMarked := fun h => hkeeps.busConflict.trans (hs.framer.overlapMarked (hparked ▸ h)) }
      config := hs.config.of_cfg hkeeps.cfg (hopened ▸ id)
      wire := emit_wireInv hs.wire hjob' hp
      chain := chainFits_emit j hv hs.chain }

/-- The invariant is kept by every move, not only from states a run reaches. -/
theorem move_inv {s t : State} (h : Move s t) (hs : Inv s) : Inv t := by
  cases h with
  | outside p r ps => exact hs.outside p r s.status ps s.turns s.bus
  | configure n b d v hd hb hv => exact configure_inv hs hd hb hv
  | startupError d hd => exact raiseFault_inv _ _ hs (hs.idle_of_not_initDone hd)
  | start c p cl hc hp =>
    obtain ⟨-, hcfg⟩ := operative_eq_some.1 hc
    cases hb : s.busy with
    | false => exact startTransaction_eq_begin p cl s hb ▸ beginTransaction_inv cl hs hb hcfg hp
    | true => exact startTransaction_eq_overlap p cl s hb ▸ overlapTransaction_inv cl hs hb hcfg hp
  | byteOut v j hv hj hp hmore => exact emit_inv hs hv hj hp hmore
  | ended j e hc => exact releaseFramer_inv (hc.leavable hs)

/-- Settles O54: what a step prepares keeps the invariant, and so does each of the six moves. -/
theorem stepKeepsInvariant : Obligations.StepKeepsInvariant := by
  intro s t hs h
  obtain ⟨s', hprepared, hmove⟩ := step_move h
  exact move_inv hmove (prepared_inv hprepared hs)

end Sys2Proof.Machine
end

section
/-! What a step may do to the overlap mark, `opened`, WIRE, the LEDs and `busy` (R17, R21 to R24), one lemma
about the moves for each. -/

namespace Sys2Proof.Machine

/-! ### The overlap mark -/

/-- Only the acceptance of an operation on a busy bus changes the mark, and it sets it. -/
theorem move_busConflict {s t : State} (h : Move s t) :
    t.busConflict = s.busConflict ∨ (t.busConflict = true ∧
      s.busy = true ∧ t.busy = true ∧ t.wire.length = s.wire.length + 1) := by
  cases h with
  | outside | configure => exact .inl rfl
  | startupError d => exact .inl (raiseFault_frame _ _ s).1.busConflict
  | start c p cl =>
    obtain ⟨-, -, -, hbusy, hwire, -, -, hconflict⟩ := startTransaction_frame p cl s
    cases hb : s.busy with
    | false => exact .inl (by rw [hconflict, hb, Bool.or_false])
    | true => exact .inr ⟨by rw [hconflict, hb, Bool.or_true], rfl, hbusy, by simp [hwire]⟩
  | byteOut v j => exact .inl (emit_frame v j s).1.busConflict
  | ended j e he => exact .inl (he.keeps.trans (releaseFramer_keeps e).1).busConflict

/-- Settles O55: the mark stands until an operation is accepted on a busy bus, which sets it. -/
theorem busConflictIsSticky : Obligations.BusConflictIsSticky := by
  intro s t h
  obtain ⟨s', hprepared, hmove⟩ := step_move h
  obtain ⟨-, -, -, hbusy, hconflict, hwire, -⟩ := prepared_frame hprepared
  have hcases := move_busConflict hmove
  rw [hconflict, hbusy, hwire] at hcases
  obtain hsame | ⟨hset, hoverlap⟩ := hcases
  · exact ⟨fun hs => hsame.trans hs,
      fun hs ht => absurd (hsame.symm.trans ht) (ne_true_of_eq_false hs)⟩
  · exact ⟨fun _ => hset, fun _ _ => hoverlap⟩

/-! ### Opening and closing -/

/-- INIT opens the block and the end of an operation may close it; nothing else touches `opened`. -/
theorem move_opened {s t : State} (h : Move s t) :
    t.opened = s.opened ∨
      (s.initDone = false ∧ ∃ c, t.cfg = some c ∧ t.res.map Response.result = some (.status .ok)) ∨
      (t.status ≠ none ∧ ∃ j, s.job = some j ∧ t.opened = (s.opened && !j.closing)) := by
  cases h with
  | outside => exact .inl rfl
  | configure n b d v hd => exact .inr (.inl ⟨hd, _, rfl, rfl⟩)
  | startupError d =>
    obtain ⟨-, hopened, -⟩ := raiseFault_frame s.caller (.startupError d) s
    exact .inl hopened
  | start c p cl =>
    obtain ⟨-, -, hopened, -⟩ := startTransaction_frame p cl s
    exact .inl hopened
  | byteOut v j =>
    obtain ⟨-, hopened, -⟩ := emit_frame v j s
    exact .inl hopened
  | ended j e he =>
    obtain ⟨-, hopened, -, hstatus, -⟩ := releaseFramer_keeps e
    exact .inr (.inr ⟨hstatus ▸ he.status, j, he.job, hopened.trans he.opened⟩)

/-- Settles O57: INIT opens only where CFG has no value, and an operation whose end closes the block is a
SHUTDOWN's that had the line or waited for it. -/
theorem onlyInitOpensOnlyShutdownCloses : Obligations.OnlyInitOpensOnlyShutdownCloses := by
  intro s t h
  obtain ⟨s', hprepared, hmove⟩ := step_move h
  obtain ⟨-, hcfg, hopened, -⟩ := prepared_frame hprepared
  obtain hsame | ⟨hfirst, hanswer⟩ | ⟨hstatus, j, hjob, hclose⟩ := move_opened hmove
  · rw [hopened] at hsame
    rw [hsame]
    exact ⟨fun hs ht => absurd ht (ne_true_of_eq_false hs),
      fun hs ht => absurd hs (ne_true_of_eq_false ht)⟩
  · refine ⟨fun _ _ => ⟨hcfg ▸ cfg_eq_none_of_not_initDone hfirst, hanswer⟩, fun hs => ?_⟩
    rw [← hopened] at hs
    simp [State.initDone, hs] at hfirst
  · rw [hopened] at hclose
    refine ⟨fun hs ht => by simp [hclose, hs] at ht, fun hs ht => ⟨hstatus, j, ?_, ?_⟩⟩
    · simpa [hclose, hs] using ht
    · exact prepared_job hprepared hjob

/-! ### WIRE -/

/-- WIRE keeps its length, or an accepted operation adds its record. -/
theorem move_wire_length {s t : State} (h : Move s t) :
    t.wire.length = s.wire.length ∨ (t.wire.length = s.wire.length + 1 ∧
      ∃ q, s.port = some q ∧ (q.op = 0b011#3 ∨ q.op = 0b100#3 ∨ q.op = 0b101#3)) := by
  cases h with
  | outside | configure => exact .inl rfl
  | startupError d =>
    obtain ⟨-, -, hwire, -⟩ := raiseFault_frame s.caller (.startupError d) s
    exact .inl (by rw [hwire])
  | start c p cl _ _ hq =>
    obtain ⟨-, -, -, -, hwire, -⟩ := startTransaction_frame p cl s
    exact .inr ⟨by simp [hwire], hq⟩
  | byteOut v j =>
    obtain ⟨-, -, -, -, -, hwire, -⟩ := emit_frame v j s
    exact .inl (by rw [hwire, appendByte_length])
  | ended j e he =>
    obtain ⟨-, -, hwire, -⟩ := releaseFramer_keeps e
    exact .inl (by rw [hwire, he.wireLength])

/-- As long as nothing overlapped, an ended record is not the framer's. -/
theorem Inv.ne_index_of_ended {s : State} {j : Job} {i : Nat} {r : Record} (hs : Inv s)
    (hc : s.busConflict = false) (hj : s.job = some j) (hr : s.wire[i]? = some r)
    (hm : r.mark ≠ .running) : i ≠ j.index := by
  rintro rfl
  obtain ⟨-, hrecord⟩ := hs.wire.current hc j hj
  rw [hrecord] at hr
  cases hr
  exact hm rfl

/-- As long as nothing overlapped, a record that has ended is never written again (R36). -/
theorem move_ended_record {s t : State} (h : Move s t) (hs : Inv s) (hc : s.busConflict = false)
    {i : Nat} {r : Record} (hr : s.wire[i]? = some r) (hm : r.mark ≠ .running) :
    t.wire[i]? = some r := by
  cases h with
  | outside | configure => exact hr
  | startupError d =>
    obtain ⟨-, -, hwire, -⟩ := raiseFault_frame s.caller (.startupError d) s
    rwa [hwire]
  | start c p cl =>
    obtain ⟨-, -, -, -, hwire, -⟩ := startTransaction_frame p cl s
    have hi : i < s.wire.length := (List.getElem?_eq_some_iff.1 hr).1
    rwa [hwire, getElem?_concat_of_ne hi.ne]
  | byteOut v j hv hj =>
    obtain ⟨-, -, -, -, -, hwire, -⟩ := emit_frame v j s
    rwa [hwire, appendByte_getElem?_ne v _ (hs.ne_index_of_ended hc hj.2 hr hm)]
  | ended j e he =>
    obtain ⟨-, -, hwire, -⟩ := releaseFramer_keeps e
    rwa [hwire, he.otherRecords i (hs.ne_index_of_ended hc he.job hr hm)]

/-- Settles O58: only an accepted operation lengthens WIRE, and the byte or the end mark of a move go to the
record that is running. -/
theorem endedRecordsNeverChange : Obligations.EndedRecordsNeverChange := by
  refine ⟨fun s t h => ?_, fun s t hs hc h i r hr hm => ?_⟩
  · obtain ⟨s', hprepared, hmove⟩ := step_move h
    obtain ⟨-, -, -, -, -, hwire, -⟩ := prepared_frame hprepared
    have hlength := move_wire_length hmove
    rw [hwire, prepared_port hprepared] at hlength
    obtain hsame | ⟨hmore, hq⟩ := hlength
    · exact ⟨by omega, by omega, fun hlt => by omega⟩
    · exact ⟨by omega, by omega, fun _ => hq⟩
  · obtain ⟨s', hprepared, hmove⟩ := step_move h
    obtain ⟨-, -, -, -, hconflict, hwire, -⟩ := prepared_frame hprepared
    exact move_ended_record hmove (prepared_inv hprepared hs) (hconflict.trans hc) (hwire ▸ hr) hm

/-! ### The LEDs -/

/-- As long as nothing overlapped, a move in which no transaction ends changes no LED (R24). -/
theorem move_display {s t : State} (h : Move s t) (hc : t.busConflict = false)
    (ht : t.status = none) : t.chain.display = s.chain.display := by
  cases h with
  | outside | configure => rfl
  | startupError d =>
    obtain ⟨-, -, -, -, -, -, hchain⟩ := raiseFault_frame s.caller (.startupError d) s
    rw [hchain]
  | start c p cl =>
    cases hb : s.busy with
    | false => rw [startTransaction_eq_begin p cl s hb, State.beginTransaction_chain]
    | true => rw [startTransaction_eq_overlap p cl s hb] at hc; cases hc
  | byteOut v j hv =>
    exact emit_display j hv ((emit_frame v j s).1.busConflict ▸ hc)
  | ended j e he =>
    obtain ⟨-, -, -, hstatus, -⟩ := releaseFramer_keeps e
    exact absurd (hstatus.symm.trans ht) he.status

/-- Settles O59: the chain latches, or becomes unspecified, only in an overlap or when a transaction ends. -/
theorem displayChangesOnlyAtTransactionEnd : Obligations.DisplayChangesOnlyAtTransactionEnd := by
  intro s t h hc ht
  obtain ⟨s', hprepared, hmove⟩ := step_move h
  obtain ⟨-, -, -, -, -, -, hchain, -⟩ := prepared_frame hprepared
  rw [move_display hmove hc ht, hchain]

/-! ### busy -/

/-- From a busy framer, `busy` falls only with the end of an operation, behind which none waits. -/
theorem move_busy_falls {s t : State} (h : Move s t) (hs : Inv s) (hb : s.busy = true)
    (ht : t.busy = false) : t.status ≠ none ∧ t.pos = 0 ∧ t.sdo = false := by
  have notFirst (hd : s.initDone = false) : False := by simp [hs.idle_of_not_initDone hd] at hb
  have stays (h : t.busy = true) : False := ne_true_of_eq_false ht h
  cases h with
  | outside => exact (stays hb).elim
  | configure n b d v hd | startupError d hd => exact (notFirst hd).elim
  | start c p cl =>
    obtain ⟨-, -, -, hbusy, -⟩ := startTransaction_frame p cl s
    exact (stays hbusy).elim
  | byteOut v j =>
    obtain ⟨-, -, hbusy, -⟩ := emit_frame v j s
    exact (stays (hbusy.trans hb)).elim
  | ended j e he =>
    obtain ⟨-, -, -, hstatus, -⟩ := releaseFramer_keeps e
    exact ⟨hstatus ▸ he.status, releaseFramer_idle (he.busy.trans hb) ht⟩

/-- From an idle framer, `busy` rises only with the acceptance of an operation. -/
theorem move_busy_rises {s t : State} (h : Move s t) (hs : Inv s) (hb : s.busy = false)
    (ht : t.busy = true) :
    t.pos = 0 ∧ t.status = s.status ∧ ∃ q, t.wire = s.wire ++ [⟨q, [], .running⟩] := by
  have stays (h : t.busy = false) : False := ne_true_of_eq_false h ht
  obtain ⟨-, hjob, hparked⟩ := hs.framer.idle hb
  cases h with
  | outside => exact (stays hb).elim
  | configure => exact (stays rfl).elim
  | startupError d =>
    have hidle := releaseFramer_eq_idle
      { s with port := none, res := some ⟨s.caller, .status (.startupError d)⟩ } hparked
    exact (stays (congrArg State.busy hidle)).elim
  | start c p cl =>
    rw [startTransaction_eq_begin p cl s hb]
    exact ⟨rfl, rfl, s.caller, rfl⟩
  | byteOut v j hv hj => exact absurd hj.1 (ne_true_of_eq_false hb)
  | ended j e he => exact absurd (hjob.symm.trans he.job) (by simp)

/-- Settles O60: the framer is left idle only at the end of an operation, and taken from idle only by the
acceptance of one. -/
theorem busyRisesAndFallsWithTransactions : Obligations.BusyRisesAndFallsWithTransactions := by
  intro s t hs h
  obtain ⟨s', hprepared, hmove⟩ := step_move h
  obtain ⟨-, -, -, hbusy, -, hwire, -, hstatus, -⟩ := prepared_frame hprepared
  have hs' := prepared_inv hprepared hs
  refine ⟨fun hb ht => move_busy_falls hmove hs' (hbusy.trans hb) ht, fun hb ht => ?_⟩
  obtain ⟨hpos, hsame, hrecord⟩ := move_busy_rises hmove hs' (hbusy.trans hb) ht
  exact ⟨hpos, hsame.trans hstatus, hwire ▸ hrecord⟩

end Sys2Proof.Machine
end

section
/-! The encoder's two operations on an open block (R13), and the step that runs a byte (R18, R84). -/

namespace Sys2Proof.Machine

theorem exec_encodeLed {s : State} {c : CfgRegs} (t : Rgb) (h : Configured s c) :
    exec (.encodeLed t) s = .next (s.respond (.fragment (encodeLed scale c.brightness t))) := by
  simp only [exec, execEncodeLed, operative_eq_some.2 h]

theorem exec_encodeFrame {s : State} {c : CfgRegs} (f : Frame) (h : Configured s c) :
    exec (.encodeFrame f) s =
      if f.length = c.ledCount then
        .next (s.respond (.payload (encodeFrame scale c.brightness f)))
      else .refused .frameLength := by
  simp only [exec, execEncodeFrame, operative_eq_some.2 h]

/-- Settles O21: the answers are functions of the operand, the brightness and LED_COUNT. -/
theorem encoderDependsOnlyOnConfiguration : Obligations.EncoderDependsOnlyOnConfiguration := by
  intro s s' t t' c c' i hs hs' hbrightness hcount hi h h'
  obtain ⟨x, rfl⟩ | ⟨f, rfl⟩ := hi
  · rw [exec_encodeLed x hs] at h
    rw [exec_encodeLed x hs', ← hbrightness] at h'
    cases h
    cases h'
    rfl
  · rw [exec_encodeFrame f hs] at h
    rw [exec_encodeFrame f hs', ← hbrightness, ← hcount] at h'
    split at h
    · next hlength =>
      rw [if_pos hlength] at h'
      cases h
      cases h'
      rfl
    · cases h

/-- Settles O37: with the framer busy a free step and a turn of the framer's both fetch the byte at `pos`. -/
theorem stepRunsByteAtPosition : Obligations.StepRunsByteAtPosition := by
  intro s j v i hport hsending hbyte hdecode
  obtain ⟨hbusy, hjob⟩ := hsending
  refine ⟨fun hturns => ?_, fun pick ev ts hturns hparked => ?_⟩
  · have hfetch : fetch s = .run i { s.tick with bus := .ok } := by
      simp only [fetch, hport, hturns]
      rw [fetchDefault_busy (s := s.tick) hbusy]
      exact fetchByte_eq hjob hbyte hdecode
    rw [step, hfetch]
    rfl
  · have hfetch : fetch s = .run i { s.tick with turns := ts, bus := ev } := by
      simp only [fetch, hport, hturns]
      rw [fetchTurn_bus_busy (s := { s.tick with turns := ts }) pick ev hbusy,
        selectJob_of_not_waiting pick (s := { s.tick with turns := ts }) hparked]
      exact fetchByte_eq hjob hbyte hdecode
    rw [step, hfetch]
    rfl

end Sys2Proof.Machine
end

section
/-! Where each bit of a Frame stands in its payload (R29 to R32, R53, R70), the payload map read both ways
(R18, R29), and the Frame's length (R35). -/

namespace Sys2Proof.Machine

/-! ### Lists made of blocks of one length -/

/-- Dropping whole blocks of a concatenation drops the elements they come from. -/
theorem drop_flatMap_of_length {α β : Type} {g : α → List β} {n : Nat} (hg : ∀ a, (g a).length = n)
    (l : List α) (i : Nat) : (l.flatMap g).drop (n * i) = (l.drop i).flatMap g := by
  induction i generalizing l with
  | zero => rfl
  | succ i ih =>
    cases l with
    | nil => simp
    | cons a l =>
      rw [List.flatMap_cons, List.drop_succ_cons, ← ih l, Nat.mul_succ, Nat.add_comm, ← List.drop_drop,
        List.drop_left' (hg a)]

/-- From the start of its block on, the concatenation begins with the element's block. -/
theorem drop_flatMap_of_getElem? {α β : Type} {g : α → List β} {n : Nat} (hg : ∀ a, (g a).length = n)
    {l : List α} {i : Nat} {a : α} (ha : l[i]? = some a) :
    (l.flatMap g).drop (n * i) = g a ++ (l.drop (i + 1)).flatMap g := by
  obtain ⟨hi, rfl⟩ := List.getElem?_eq_some_iff.1 ha
  rw [drop_flatMap_of_length hg, List.drop_eq_getElem_cons hi, List.flatMap_cons]

/-! ### The bits of a color -/

/-- Bit `k` of a channel is the bit number `7 - k` on the line (R32). -/
theorem chanBits_getElem? (v : Chan) {k : Nat} (hk : k ≤ 7) :
    (chanBits v)[7 - k]? = some (v.getLsbD k) := by
  rw [chanBits, List.getElem?_map, List.getElem?_range (by omega), Option.map_some,
    show 7 - (7 - k) = k by omega]

/-- The channels of a color stand in the order green, red, blue (R31). -/
theorem grbBits_getElem? (c : Grb) {j k : Nat} (hj : j ≤ 2) (hk : k ≤ 7) :
    (grbBits c)[8 * j + (7 - k)]? = some ((grbSlot c j).getLsbD k) := by
  rw [grbBits, List.append_assoc]
  match j, hj with
  | 0, _ =>
    rw [List.getElem?_append_left (by simp; omega), Nat.mul_zero, Nat.zero_add]
    exact chanBits_getElem? c.g hk
  | 1, _ =>
    rw [List.getElem?_append_right (by simp), List.getElem?_append_left (by simp; omega), chanBits_length,
      Nat.mul_one, Nat.add_sub_cancel_left]
    exact chanBits_getElem? c.r hk
  | 2, _ =>
    rw [List.getElem?_append_right (by simp; omega), List.getElem?_append_right (by simp; omega),
      chanBits_length, chanBits_length, show 8 * 2 + (7 - k) - 8 - 8 = 7 - k by omega]
    exact chanBits_getElem? c.b hk

/-! ### The payload -/

/-- The payload is the symbols of the shown colors' bits, then the reset block. -/
theorem encodeFrame_eq (sc : ScaleFn) (b : Ratio) (f : Frame) :
    encodeFrame sc b f = (f.flatMap fun t => grbBits (shownColor sc b t)).map symbol ++ pad := by
  rw [encodeFrame, flatMap_encodeLed]

/-- Data bit `k` of slot `j` of LED `i` stands at its index of the payload map (R29). -/
theorem encodeFrame_getElem?_data (sc : ScaleFn) (b : Ratio) {f : Frame} {i j k : Nat} {t : Rgb}
    (ht : f[i]? = some t) (hj : j ≤ 2) (hk : k ≤ 7) :
    (encodeFrame sc b f)[payloadIndex i j k]? =
      some (symbol ((grbSlot (shownColor sc b t) j).getLsbD k)) := by
  have hi : i < f.length := (List.getElem?_eq_some_iff.1 ht).1
  have hbit : (f.flatMap fun t => grbBits (shownColor sc b t))[payloadIndex i j k]? =
      some ((grbSlot (shownColor sc b t) j).getLsbD k) := by
    rw [payloadIndex, Nat.add_assoc, ← List.getElem?_drop,
      drop_flatMap_of_getElem? (fun t => grbBits_length (shownColor sc b t)) ht,
      List.getElem?_append_left (by simp; omega)]
    exact grbBits_getElem? _ hj hk
  rw [encodeFrame_eq, List.getElem?_append_left, List.getElem?_map, hbit, Option.map_some]
  rw [List.length_map, flatMap_grbBits_length, payloadIndex]
  omega

/-- After the data bits only pad bytes follow (R53). -/
theorem encodeFrame_getElem?_pad (sc : ScaleFn) (b : Ratio) (f : Frame) {n : Nat} (hn : n < 64) :
    (encodeFrame sc b f)[24 * f.length + n]? = some Config.padByte := by
  have hlength := flatMap_encodeLed_length sc b f
  rw [encodeFrame, List.getElem?_append_right (by omega), hlength, Nat.add_sub_cancel_left]
  exact List.getElem?_replicate_of_lt hn

/-- Settles O14: the data bits by their blocks of 24, then the reset block. -/
theorem payloadCarriesFrame : Obligations.PayloadCarriesFrame := fun sc b f =>
  ⟨payloadWellFormed_length (encodeFrame_wellFormed sc b f),
    fun _ _ _ _ ht hj hk => encodeFrame_getElem?_data sc b ht hj hk,
    fun _ hn => encodeFrame_getElem?_pad sc b f hn⟩

/-! ### The payload map -/

theorem payloadIndex_lt {n i j k : Nat} (hi : i < n) (hj : j ≤ 2) : payloadIndex i j k < 24 * n := by
  rw [payloadIndex]
  omega

/-- Below the reset block a position is the index of one data bit. -/
theorem payloadIndex_surjective {n pos : Nat} (h : pos < 24 * n) :
    pos / 24 < n ∧ pos % 24 / 8 ≤ 2 ∧ payloadIndex (pos / 24) (pos % 24 / 8) (7 - pos % 8) = pos := by
  rw [payloadIndex]
  omega

/-- The role of a data bit's index names that bit (R18). -/
theorem roleAt_payloadIndex {n i j k : Nat} (hi : i < n) (hj : j ≤ 2) (hk : k ≤ 7) :
    roleAt n (payloadIndex i j k) = .data i j k := by
  rw [roleAt, if_pos (payloadIndex_lt hi hj), ByteRole.data.injEq, payloadIndex]
  omega

/-- Past the data the role counts the pad bytes (R18). -/
theorem roleAt_pad (n m : Nat) : roleAt n (24 * n + m) = .pad m := by
  rw [roleAt, if_neg (by omega), Nat.add_sub_cancel_left]

theorem payloadLength_eq (n : Nat) : payloadLength n = 24 * n + 64 := rfl

/-- Settles O15: the role of an index gives back its LED, slot and bit, or its place in the reset block. -/
theorem payloadMapCoversOnce : Obligations.PayloadMapCoversOnce := by
  intro n
  rw [payloadLength_eq]
  refine ⟨fun i j k hi hj hk => ⟨payloadIndex_lt hi hj, roleAt_payloadIndex hi hj hk⟩,
    fun m hm => ⟨by omega, roleAt_pad n m⟩, fun pos hpos => ?_⟩
  by_cases hdata : pos < 24 * n
  · obtain ⟨hi, hj, heq⟩ := payloadIndex_surjective hdata
    exact .inl ⟨_, _, _, hi, hj, Nat.sub_le 7 _, heq⟩
  · exact .inr ⟨pos - 24 * n, by omega, by omega⟩

/-! ### The Frame's length -/

theorem exec_showFrame {s : State} {c : CfgRegs} (f : Frame) (h : Configured s c) :
    exec (.showFrame f) s =
      if f.length = c.ledCount then
        .next (s.startTransaction (encodeFrame scale c.brightness f) false)
      else .refused .frameLength := by
  simp only [exec, execShow, operative_eq_some.2 h]

/-- Settles O26: both operations compare the Frame's length with LED_COUNT. -/
theorem wrongFrameLengthRefused : Obligations.WrongFrameLengthRefused := fun _ _ f hc hlength =>
  ⟨(exec_encodeFrame f hc).trans (if_neg hlength), (exec_showFrame f hc).trans (if_neg hlength)⟩

end Sys2Proof.Machine
end

section
/-! The requesters (R41, R86, R109). -/

namespace Sys2Proof.Machine

/-- A requester is blocked by an operation of its own, on the line or waiting for it. -/
theorem blocked_iff (s : State) (n : Nat) :
    s.blocked n = true ↔
      (∃ j, s.job = some j ∧ j.requester = n) ∨ ∃ p ∈ s.parked, p.job.requester = n := by
  cases hj : s.job <;> simp [State.blocked, hj]

/-- A requester whose list is used up, or that has none, places nothing. -/
theorem issue_of_no_request {n : Nat} {s : State}
    (h : s.programs[n]? = none ∨ s.programs[n]? = some []) : s.issue n = s := by
  obtain h | h := h <;> simp only [State.issue, h]

/-- Settles O39: the requester's turn is taken, and what it places is the head of its list or nothing. -/
theorem requestersIssueInOrder : Obligations.RequestersIssueInOrder := by
  refine ⟨blocked_iff, fun s n ts hport hturns => ?_⟩
  have hstep := step_of_issue hport hturns
  refine ⟨fun hblocked => ?_, fun hnone => ?_, fun r rest hr hfree => ?_⟩
  · exact hstep.trans (congrArg _ (issue_of_blocked (s := { s.tick with turns := ts }) hblocked))
  · exact hstep.trans (congrArg _ (issue_of_no_request (s := { s.tick with turns := ts }) hnone))
  · exact hstep.trans (congrArg _ (issue_of_not_blocked (s := { s.tick with turns := ts }) hr hfree))

end Sys2Proof.Machine
end

section
/-! The line of a payload (R40, R43): read by pulse width it carries the data bits, and only the reset block is
a long low run. -/

namespace Sys2Proof.Machine

theorem lineOf_cons (m : WireMode) (v : Byte) (p : List Byte) :
    lineOf m (v :: p) = wirePattern m v ++ lineOf m p := List.flatMap_cons

theorem decodeSymbol_symbol (d : Bool) : decodeSymbol (symbol d) = some d := by cases d <;> rfl

/-- The data bits of a payload are those its symbols stand for (R72). -/
theorem filterMap_decodeSymbol_payload (bits : List Bool) :
    (bits.map symbol ++ pad).filterMap decodeSymbol = bits := by
  have hpad : pad.filterMap decodeSymbol = [] := List.filterMap_replicate_of_none rfl
  rw [List.filterMap_append, hpad, List.append_nil, List.filterMap_map]
  exact (List.filterMap_congr fun d _ => decodeSymbol_symbol d).trans List.filterMap_some

/-! ### Reading by pulse width -/

/-- The high run of a data bit (R43). -/
def pulseWidth (d : Bool) : Nat := if d then 2 else 1

theorem pulseBit_pulseWidth (d : Bool) : pulseBit (pulseWidth d) = some d := by cases d <;> rfl

/-- The high runs of a payload's line are the pulses of its data bits, in order. -/
theorem highRunsFrom_payload (m : WireMode) (bits : List Bool) :
    highRunsFrom 0 (lineOf m (bits.map symbol ++ pad)) = bits.map pulseWidth := by
  induction bits with
  | nil =>
    have h := highRunsFrom_low (periodsPerByte m * Config.resetPadding) []
    rw [List.append_nil] at h
    exact (congrArg _ (lineOf_pad m Config.resetPadding)).trans h
  | cons d bits ih =>
    rw [List.map_cons, List.cons_append, lineOf_cons, highRunsFrom_symbol, ih]
    rfl

theorem mapM_pulseBit (bits : List Bool) : (bits.map pulseWidth).mapM pulseBit = some bits := by
  induction bits with
  | nil => rfl
  | cons d bits ih => simp [pulseBit_pulseWidth, ih]

/-- Settles O49: every symbol is one pulse, whose width tells the data bit, and the reset block has none. -/
theorem lineCarriesDataBits : Obligations.LineCarriesDataBits := by
  intro m n p hp
  obtain ⟨bits, -, rfl⟩ := payloadWellFormed_split hp
  rw [readLine, highRunsFrom_payload, mapM_pulseBit, filterMap_decodeSymbol_payload]

/-! ### A symbol as low periods, one pulse, and low periods -/

/-- The low periods of a symbol before its pulse (R55). -/
def lowLead : WireMode → Bool → Nat
  | .w8Msb, _ => 5
  | .w8Lsb, false => 2
  | .w8Lsb, true => 1
  | .w3Msb, _ => 0

/-- The low periods of a symbol after its pulse and the first low period behind it (R55). -/
def lowRest : WireMode → Bool → Nat
  | .w8Msb, false => 1
  | .w8Msb, true => 0
  | .w8Lsb, _ => 4
  | .w3Msb, false => 1
  | .w3Msb, true => 0

/-- The longest low run between the pulses of two data bits (R40). -/
def lowGap : WireMode → Nat
  | .w8Msb => 7
  | .w8Lsb => 7
  | .w3Msb => 2

theorem wirePattern_symbol (m : WireMode) (d : Bool) :
    wirePattern m (symbol d) =
      List.replicate (lowLead m d) false ++
        (List.replicate (pulseWidth d) true ++ false :: List.replicate (lowRest m d) false) := by
  cases m <;> cases d <;> rfl

/-- The low run open after `n` low periods is no longer than `lowGap` when the next pulse begins. -/
def WithinGap (m : WireMode) (n : Nat) : Prop := ∀ d, n + lowLead m d ≤ lowGap m

theorem withinGap_zero (m : WireMode) : WithinGap m 0 := by
  intro d
  cases m <;> cases d <;> decide

/-- Whatever two symbols follow each other, their pulses are at most `lowGap` apart. -/
theorem withinGap_lowRest (m : WireMode) (d : Bool) : WithinGap m (1 + lowRest m d) := by
  intro d'
  cases m <;> cases d <;> cases d' <;> decide

theorem WithinGap.le {m : WireMode} {n : Nat} (h : WithinGap m n) : n ≤ lowGap m :=
  (Nat.le_add_right _ _).trans (h true)

/-! ### Low runs -/

theorem longestLowFrom_low (k n : Nat) (l : List Bool) :
    longestLowFrom n (List.replicate k false ++ l) = longestLowFrom (n + k) l := by
  induction k generalizing n with
  | zero => rfl
  | succ k ih =>
    rw [List.replicate_succ, List.cons_append, longestLowFrom, ih, Nat.add_assoc, Nat.add_comm 1]

theorem longestLowFrom_pulse (d : Bool) (n : Nat) (l : List Bool) :
    longestLowFrom n (List.replicate (pulseWidth d) true ++ false :: l) =
      max n (longestLowFrom 1 l) := by
  cases d with
  | false => rfl
  | true => exact congrArg (max n) (Nat.zero_max _)

/-- No low run among the symbols is longer than `lowGap`. -/
theorem longestLowFrom_symbols {m : WireMode} (bits : List Bool) {n : Nat} (hn : WithinGap m n) :
    longestLowFrom n (lineOf m (bits.map symbol)) ≤ lowGap m := by
  induction bits generalizing n with
  | nil => exact hn.le
  | cons d bits ih =>
    rw [List.map_cons, lineOf_cons, wirePattern_symbol, List.append_assoc, longestLowFrom_low,
      List.append_assoc, List.cons_append, longestLowFrom_pulse, longestLowFrom_low]
    exact max_le (hn d) (ih (withinGap_lowRest m d))

/-- The data part and the reset block of a payload. -/
theorem payload_take_drop {n : Nat} {bits : List Bool} (h : bits.length = 24 * n) :
    (bits.map symbol ++ pad).take (24 * n) = bits.map symbol ∧
      (bits.map symbol ++ pad).drop (24 * n) = pad := by
  have hlength : (bits.map symbol).length = 24 * n := by rw [List.length_map, h]
  exact ⟨List.take_left' hlength, List.drop_left' hlength⟩

theorem lineOf_pad_block (m : WireMode) :
    lineOf m pad = List.replicate (periodsPerByte m * 64) false := lineOf_pad m 64

/-- Settles O50: the reset block is low throughout, and no two pulses are further apart than `lowGap`. -/
theorem onlyResetBlockIsLongLow : Obligations.OnlyResetBlockIsLongLow := by
  intro n p hp
  obtain ⟨bits, hbits, rfl⟩ := payloadWellFormed_split hp
  obtain ⟨hdata, hreset⟩ := payload_take_drop hbits
  rw [hdata, hreset]
  exact ⟨lineOf_pad_block .w8Msb, lineOf_pad_block .w8Lsb, lineOf_pad_block .w3Msb,
    longestLowFrom_symbols bits (withinGap_zero .w8Msb),
    longestLowFrom_symbols bits (withinGap_zero .w8Lsb),
    longestLowFrom_symbols bits (withinGap_zero .w3Msb)⟩

end Sys2Proof.Machine
end

section
/-! The chain that reads SDO bit by bit (R40, R43): it takes a bit for each pulse, and latches once, in the reset
block. -/

namespace Sys2Proof.Machine

/-- The premise on RESET_UNITS in terms of the gap between pulses and the length of the reset block. -/
theorem resetSuffices_bounds {pl : Platform} (h : resetSuffices pl = true) :
    lowGap pl.wireMode < pl.resetUnits ∧ pl.resetUnits ≤ periodsPerByte pl.wireMode * 64 := by
  cases hm : pl.wireMode <;> simpa [resetSuffices, hm, lowGap, periodsPerByte] using h

/-- A latch before any bit has arrived changes nothing. -/
theorem latch_of_k_zero (len d : Nat) {c : Chain} (h : c.k = some 0) : c.latch len d = c := by
  obtain ⟨k, shadow, display⟩ := c
  subst h
  simp [Chain.latch, List.mapIdx_eq_iff]

/-! ### Stretches of line -/

theorem bitChain_read_cons (pl : Platform) (d : Nat) (level : Bool) (l : List Bool) (c : BitChain) :
    BitChain.read pl d (level :: l) c = BitChain.read pl d l (c.period pl d level) := rfl

section
variable (pl : Platform) (d : Nat)

/-- A low run latches nothing that stays below RESET_UNITS, or has passed it. -/
theorem read_low {low n : Nat} (c : Chain) (h : pl.resetUnits ≤ low ∨ low + n < pl.resetUnits) :
    BitChain.read pl d (List.replicate n false) ⟨0, low, c⟩ = ⟨0, low + n, c⟩ := by
  induction n generalizing low with
  | zero => rfl
  | succ n ih =>
    have hperiod : BitChain.period pl d ⟨0, low, c⟩ false = ⟨0, low + 1, c⟩ := by
      simp [BitChain.period, show low + 1 ≠ pl.resetUnits by omega]
    rw [List.replicate_succ, bitChain_read_cons, hperiod, ih (by omega), Nat.add_assoc, Nat.add_comm 1]

/-- A low run that reaches RESET_UNITS latches, once. -/
theorem read_low_latch {low n : Nat} (c : Chain) (hlow : low < pl.resetUnits)
    (hn : pl.resetUnits ≤ low + n) :
    BitChain.read pl d (List.replicate n false) ⟨0, low, c⟩ = ⟨0, low + n, c.latch pl.chainLen d⟩ := by
  obtain ⟨before, hbefore⟩ : ∃ before, pl.resetUnits = low + before + 1 :=
    ⟨pl.resetUnits - low - 1, by omega⟩
  obtain ⟨after, hafter⟩ : ∃ after, n = before + (1 + after) := ⟨n - before - 1, by omega⟩
  have hperiod : BitChain.read pl d (List.replicate 1 false) ⟨0, low + before, c⟩ =
      ⟨0, low + before + 1, c.latch pl.chainLen d⟩ := by
    simp [BitChain.read, BitChain.period, hbefore]
  rw [hafter, List.replicate_add, List.replicate_add, bitChain_read_append, bitChain_read_append,
    read_low pl d c (.inr (by omega)), hperiod, read_low pl d _ (.inl (by omega))]
  simp only [Nat.add_assoc]

/-- The low period behind a pulse takes the pulse's data bit. -/
theorem read_pulse (bit : Bool) (low : Nat) (c : Chain) (l : List Bool) (h : pl.resetUnits ≠ 1) :
    BitChain.read pl d (List.replicate (pulseWidth bit) true ++ false :: l) ⟨0, low, c⟩ =
      BitChain.read pl d l ⟨0, 1, c.takeBit pl.chainLen bit⟩ := by
  cases bit <;> simp [BitChain.read, BitChain.period, pulseWidth, pulseBit, Ne.symm h]

end

/-! ### The payload -/

section
variable {pl : Platform} (d : Nat) (hpl : resetSuffices pl = true)
include hpl

/-- A symbol takes its data bit when the chain has latched already, or the gap before it is not too long. -/
theorem read_symbol (bit : Bool) {low : Nat} (c : Chain)
    (h : pl.resetUnits ≤ low ∨ WithinGap pl.wireMode low) :
    BitChain.read pl d (wirePattern pl.wireMode (symbol bit)) ⟨0, low, c⟩ =
      ⟨0, 1 + lowRest pl.wireMode bit, c.takeBit pl.chainLen bit⟩ := by
  obtain ⟨hgap, -⟩ := resetSuffices_bounds hpl
  have hrest := (withinGap_lowRest pl.wireMode bit).le
  have hlead : pl.resetUnits ≤ low ∨ low + lowLead pl.wireMode bit < pl.resetUnits :=
    h.imp_right fun h => (h bit).trans_lt hgap
  rw [wirePattern_symbol, bitChain_read_append, read_low pl d c hlead, read_pulse pl d _ _ _ _ (by omega),
    read_low pl d _ (.inr (by omega))]

/-- The symbols after the first are taken bit by bit, and the chain does not latch among them. -/
theorem read_symbols (bits : List Bool) {low : Nat} (c : Chain) (h : WithinGap pl.wireMode low) :
    ∃ low', WithinGap pl.wireMode low' ∧
      BitChain.read pl d (lineOf pl.wireMode (bits.map symbol)) ⟨0, low, c⟩ =
        ⟨0, low', bits.foldl (fun c b => c.takeBit pl.chainLen b) c⟩ := by
  induction bits generalizing low c with
  | nil => exact ⟨low, h, rfl⟩
  | cons bit bits ih =>
    obtain ⟨low', hlow', hread⟩ := ih (c.takeBit pl.chainLen bit) (withinGap_lowRest pl.wireMode bit)
    refine ⟨low', hlow', ?_⟩
    rw [List.map_cons, lineOf_cons, bitChain_read_append, read_symbol d hpl bit c (.inr h), hread,
      List.foldl_cons]

/-- A payload with at least one data bit ends in a reset block that latches. -/
theorem read_payload_of_cons (bit : Bool) (bits : List Bool) {low : Nat} (c : Chain)
    (h : pl.resetUnits ≤ low) :
    (BitChain.read pl d (lineOf pl.wireMode ((bit :: bits).map symbol ++ pad)) ⟨0, low, c⟩).chain =
      ((bit :: bits).foldl (fun c b => c.takeBit pl.chainLen b) c).latch pl.chainLen d := by
  obtain ⟨hgap, hreset⟩ := resetSuffices_bounds hpl
  obtain ⟨low', hlow', hread⟩ :=
    read_symbols d hpl bits (c.takeBit pl.chainLen bit) (withinGap_lowRest pl.wireMode bit)
  have hbound := hlow'.le
  rw [List.map_cons, List.cons_append, lineOf_cons, lineOf_append, bitChain_read_append,
    bitChain_read_append, read_symbol d hpl bit c (.inl h), hread, lineOf_pad_block,
    read_low_latch pl d _ (by omega) (by omega), List.foldl_cons]

end

/-- Settles O51: with data bits the chain latches in the reset block alone; without any it does not latch, and
the byte-level chain's latch changes nothing. -/
theorem bitLevelChainAgrees : Obligations.BitLevelChainAgrees := by
  intro pl n d low p c hpl hp hlow hk
  obtain ⟨bits, -, rfl⟩ := payloadWellFormed_split hp
  rw [foldl_takeByte_payload]
  cases bits with
  | nil =>
    rw [List.map_nil, List.nil_append, lineOf_pad_block, read_low pl d c (.inl hlow)]
    exact (latch_of_k_zero pl.chainLen d hk).symm
  | cons bit bits => exact read_payload_of_cons d hpl bit bits c hlow

end Sys2Proof.Machine
end

section
/-! What the chain shows after a payload (R38, R43, R44): the display after a latch, the same payload twice, and
a Frame on a chain of its length. -/

namespace Sys2Proof.Machine

/-- With `k` known the latch gives every LED whose 24 bits arrived the color of `shadow` (R43). -/
theorem latch_display_of_k {k : Nat} (len d : Nat) {c : Chain} (hk : c.k = some k) :
    (c.latch len d).display =
      c.display.mapIdx fun i old => if 24 * i + 24 ≤ k then shadowColor c.shadow i else old := by
  simp only [Chain.latch, hk]

/-- What `shadow` holds after bits taken from `k = 0`: the bits that fit, and its own after them. -/
theorem foldl_takeBit_shadow_getElem? (len : Nat) (bits : List Bool) {c : Chain} (hk : c.k = some 0) (m : Nat) :
    (bits.foldl (fun c b => c.takeBit len b) c).shadow[m]? =
      if m < bits.length ∧ m < 24 * len ∧ m < c.shadow.length then bits[m]? else c.shadow[m]? := by
  obtain ⟨-, -, -, hshadow⟩ := foldl_takeBit len bits c 0 hk
  simpa using hshadow m

/-- Bits that `shadow` holds already leave it as it is. -/
theorem foldl_takeBit_shadow_again (len : Nat) (bits : List Bool) {c c' : Chain} (hk : c.k = some 0)
    (hk' : c'.k = some 0) (hs : c'.shadow = (bits.foldl (fun c b => c.takeBit len b) c).shadow) :
    (bits.foldl (fun c b => c.takeBit len b) c').shadow = c'.shadow := by
  obtain ⟨-, -, hlength, -⟩ := foldl_takeBit len bits c 0 hk
  refine List.ext_getElem? fun m => ?_
  rw [foldl_takeBit_shadow_getElem? len bits hk', hs, hlength, foldl_takeBit_shadow_getElem? len bits hk]
  split <;> rfl

/-- Settles O46: the second pass writes the bits `shadow` holds and latches the LEDs the first pass did. -/
theorem repeatedPayloadLeavesDisplay : Obligations.RepeatedPayloadLeavesDisplay := by
  intro n len d d' p c hp hk _ _
  obtain ⟨bits, -, rfl⟩ := payloadWellFormed_split hp
  simp only [foldl_takeByte_payload]
  obtain ⟨hcount, -⟩ := foldl_takeBit len bits c 0 hk
  generalize honce : (bits.foldl (fun c b => c.takeBit len b) c).latch len d = once
  have honce_k : once.k = some 0 := honce ▸ latch_k len d _
  have hshadow : once.shadow = (bits.foldl (fun c b => c.takeBit len b) c).shadow :=
    honce ▸ latch_shadow len d _
  obtain ⟨hcount', hdisplay, -⟩ := foldl_takeBit len bits once 0 honce_k
  rw [latch_display_of_k len d' hcount', hdisplay,
    foldl_takeBit_shadow_again len bits hk honce_k hshadow, ← honce, latch_display_of_k len d hcount,
    latch_shadow, List.mapIdx_mapIdx]
  refine congrArg (List.mapIdx · _) (funext fun i => funext fun old => ?_)
  simp only [Function.comp_apply]
  split <;> rfl

/-! ### A Frame on a chain of its length -/

/-- Bits that fill `shadow` exactly are then all it holds. -/
theorem foldl_takeBit_shadow_of_fits (len : Nat) {bits : List Bool} {c : Chain} (hk : c.k = some 0)
    (hbits : bits.length = 24 * len) (hshadow : c.shadow.length = 24 * len) :
    (bits.foldl (fun c b => c.takeBit len b) c).shadow = bits := by
  refine List.ext_getElem? fun m => ?_
  rw [foldl_takeBit_shadow_getElem? len bits hk]
  split
  · rfl
  · rw [List.getElem?_eq_none (by omega), List.getElem?_eq_none (by omega)]

/-- The color read from the bits of a color. -/
theorem shadowColor_grbBits (shadow l : List Bool) (i : Nat) (g : Grb)
    (h : shadow.drop (24 * i) = grbBits g ++ l) : shadowColor shadow i = g := by
  have hgreen : (grbBits g ++ l).take 8 = chanBits g.g := by
    rw [grbBits, List.append_assoc, List.append_assoc, List.take_left' (chanBits_length _)]
  have hred : ((grbBits g ++ l).drop 8).take 8 = chanBits g.r := by
    rw [grbBits, List.append_assoc, List.append_assoc, List.drop_left' (chanBits_length _),
      List.take_left' (chanBits_length _)]
  have hblue : ((grbBits g ++ l).drop 16).take 8 = chanBits g.b := by
    rw [grbBits, List.append_assoc, List.drop_left' (by simp), List.take_left' (chanBits_length _)]
  simp only [shadowColor, h, hgreen, hred, hblue, chanOfBits_chanBits]

/-- A chain of the Frame's length with `k = 0` shows the Frame after its payload (R44), for every scaling. -/
theorem latch_encodeFrame_display (sc : ScaleFn) (b : Ratio) (f : Frame) (d : Nat) {c : Chain}
    (hk : c.k = some 0) (hshadow : c.shadow.length = 24 * f.length)
    (hdisplay : c.display.length = f.length) :
    (((encodeFrame sc b f).foldl (fun c v => c.takeByte f.length v) c).latch f.length d).display =
      f.map (shownColor sc b) := by
  have hbits := flatMap_grbBits_length sc b f
  rw [encodeFrame_eq, foldl_takeByte_payload]
  obtain ⟨hcount, hkeeps, -⟩ := foldl_takeBit f.length (f.flatMap fun t => grbBits (shownColor sc b t)) c 0 hk
  rw [latch_display_of_k _ d hcount, hkeeps, foldl_takeBit_shadow_of_fits _ hk hbits hshadow]
  refine List.ext_getElem? fun i => ?_
  rw [List.getElem?_mapIdx, List.getElem?_map]
  cases ht : f[i]? with
  | none =>
    rw [List.getElem?_eq_none (hdisplay.trans_le (List.getElem?_eq_none_iff.1 ht))]
    rfl
  | some t =>
    have hi : i < f.length := (List.getElem?_eq_some_iff.1 ht).1
    have hcolor := shadowColor_grbBits _ _ i _
      (drop_flatMap_of_getElem? (fun t => grbBits_length (shownColor sc b t)) ht)
    rw [List.getElem?_eq_getElem (hdisplay ▸ hi), Option.map_some, Option.map_some, hcolor,
      if_pos (by omega)]

end Sys2Proof.Machine
end

section
/-! One transaction under every schedule (R36, R82, R84 to R87, R95): how far it has come, what a step can make of
it, and how it stands when it has ended. -/

namespace Sys2Proof.Machine

/-! ### Steps on a bus with nothing waiting -/

/-- With nothing waiting a step only prepares the ports, the turns and the bus's answer. -/
theorem prepared_eq_of_not_waiting {s s' : State} (h : Prepared s s') (hp : s.parked = []) :
    ∃ ts b, s' = { s.tick with turns := ts, bus := b } := by
  cases h with
  | request | idle => exact ⟨s.turns, s.bus, rfl⟩
  | turn _ ts => exact ⟨ts, s.bus, rfl⟩
  | framer => exact ⟨s.turns, .ok, rfl⟩
  | busTurn pick ev ts =>
    exact ⟨ts, ev, by rw [selectJob_of_not_waiting pick (s := { s.tick with turns := ts }) hp]⟩

/-- An accepted operation has its record in WIRE. -/
theorem startTransaction_wire_length (p : Payload) (cl : Bool) (s : State) :
    s.wire.length < (s.startTransaction p cl).wire.length := by
  obtain ⟨-, -, -, -, hwire, -⟩ := startTransaction_frame p cl s
  simp [hwire]

/-- No step shortens WIRE. -/
theorem step_wire_length {s t : State} (h : step s = .next t) : s.wire.length ≤ t.wire.length := by
  obtain ⟨s', hprepared, hmove⟩ := step_move h
  obtain ⟨-, -, -, -, -, hwire, -⟩ := prepared_frame hprepared
  rw [← hwire]
  obtain hsame | ⟨hmore, -⟩ := move_wire_length hmove
  · exact hsame.ge
  · omega

/-! ### A framer at rest -/

/-- The framer holds no operation and none waits. -/
structure AtRest (s : State) : Prop where
  busy : s.busy = false
  job : s.job = none
  parked : s.parked = []

/-- From rest a move accepts an operation, or leaves WIRE and the chain as they are. -/
theorem AtRest.move {s t : State} (hs : AtRest s) (h : Move s t) :
    s.wire.length < t.wire.length ∨ (AtRest t ∧ t.wire = s.wire ∧ t.chain = s.chain) := by
  cases h with
  | outside => exact .inr ⟨{ hs with }, rfl, rfl⟩
  | configure => exact .inr ⟨{ hs with busy := rfl }, rfl, rfl⟩
  | startupError d =>
    have hidle := releaseFramer_eq_idle
      { s with port := none, res := some ⟨s.caller, .status (.startupError d)⟩ } hs.parked
    rw [State.raiseFault, hidle]
    exact .inr ⟨⟨rfl, rfl, hs.parked⟩, rfl, rfl⟩
  | start c p cl => exact .inl (startTransaction_wire_length p cl s)
  | byteOut v j _ hj => exact absurd hj.1 (ne_true_of_eq_false hs.busy)
  | ended j e he => exact absurd (hs.job.symm.trans he.job) (by simp)

/-- From rest a step accepts an operation, or leaves WIRE and the chain as they are. -/
theorem AtRest.step {s t : State} (hs : AtRest s) (h : step s = .next t) :
    s.wire.length < t.wire.length ∨ (AtRest t ∧ t.wire = s.wire ∧ t.chain = s.chain) := by
  obtain ⟨s', hprepared, hmove⟩ := step_move h
  obtain ⟨ts, b, rfl⟩ := prepared_eq_of_not_waiting hprepared hs.parked
  exact AtRest.move (s := { s.tick with turns := ts, bus := b }) { hs with } hmove

/-! ### A transaction under way -/

/-- `t` is a state in which `m` bytes of the operation `j`, which has the line in `s` before its first byte, have
gone out, and nothing has overlapped it. -/
structure Progress (s : State) (j : Job) (m : Nat) (t : State) : Prop where
  sending : Sending t j
  noOverlap : NoOverlap t
  pos : t.pos = m
  platform : t.platform = s.platform
  cfg : t.cfg = s.cfg
  opened : t.opened = s.opened
  draws : t.draws = s.draws
  wire : t.wire = s.wire.modify j.index fun r => { r with bytes := r.bytes ++ j.payload.take m }
  line : t.line = s.line ++ lineOf s.platform.wireMode (j.payload.take m)
  chain : t.chain =
    (j.payload.take m).foldl (fun c v => c.takeByte s.platform.chainLen v) s.chain

/-- The operation `j`, which has the line in `s` before its first byte, is complete in `t` (R87). -/
structure Completed (s : State) (j : Job) (t : State) : Prop where
  rest : AtRest t
  pos : t.pos = 0
  sdo : t.sdo = false
  busConflict : t.busConflict = false
  platform : t.platform = s.platform
  cfg : t.cfg = s.cfg
  opened : t.opened = (s.opened && !j.closing)
  res : t.res = some ⟨j.requester, .status .ok⟩
  status : t.status = some .ok
  wire : t.wire = s.wire.modify j.index fun r =>
    { r with bytes := r.bytes ++ j.payload, mark := .complete }
  line : t.line = s.line ++ lineOf s.platform.wireMode j.payload
  chain : t.chain = (j.payload.foldl (fun c v => c.takeByte s.platform.chainLen v) s.chain).latch
    s.platform.chainLen s.draws

theorem Progress.zero {s : State} {j : Job} (hj : Sending s j) (hs : NoOverlap s) (hpos : s.pos = 0) :
    Progress s j 0 s where
  sending := hj
  noOverlap := hs
  pos := hpos
  platform := rfl
  cfg := rfl
  opened := rfl
  draws := rfl
  wire := by
    simp only [List.take_zero, List.append_nil]
    exact (List.modify_id j.index s.wire).symm
  line := by simp [lineOf]
  chain := rfl

/-- The ports, the status, the requesters, the turns and the bus have no part in the progress. -/
theorem Progress.outside {s t : State} {j : Job} {m : Nat} (h : Progress s j m t) (p : Option Port)
    (r : Option Response) (st : Option Status) (ps : List (List Request)) (ts : List Turn) (b : BusEvent) :
    Progress s j m { t with port := p, res := r, status := st, programs := ps, turns := ts, bus := b } :=
  { h with }

theorem Progress.wire_length {s t : State} {j : Job} {m : Nat} (h : Progress s j m t) :
    t.wire.length = s.wire.length := by
  rw [h.wire, List.length_modify]

/-- The next byte goes out. -/
theorem Progress.emit {s t : State} {j : Job} {m : Nat} {v : Byte} (h : Progress s j m t)
    (hv : isCodeByte v = true) (hp : j.payload[m]? = some v) : Progress s j (m + 1) (t.emit v j) := by
  obtain ⟨hconflict, hparked⟩ := h.noOverlap
  have htake : j.payload.take (m + 1) = j.payload.take m ++ [v] := by
    rw [List.take_add_one, hp, Option.toList_some]
  rw [emit_eq_sent v j t hv hconflict]
  exact
    { sending := h.sending
      noOverlap := ⟨hconflict, hparked⟩
      pos := congrArg (· + 1) h.pos
      platform := h.platform
      cfg := h.cfg
      opened := h.opened
      draws := h.draws
      wire := by
        simp only [State.sent, h.wire, appendByte, List.modify_modify_eq, htake]
        congr 1
        funext r
        simp
      line := by
        simp [State.sent, h.line, h.platform, htake, lineOf]
      chain := by
        simp only [State.sent, h.chain, h.platform, htake, List.foldl_append, List.foldl_cons, List.foldl_nil] }

/-- After the last byte the transaction is complete. -/
theorem Progress.complete {s t : State} {j : Job} {m : Nat} (h : Progress s j m t)
    (hm : j.payload.length ≤ m) : Completed s j (t.completeTransaction j) := by
  obtain ⟨hconflict, hparked⟩ := h.noOverlap
  have htake : j.payload.take m = j.payload := List.take_of_length_le hm
  rw [completeTransaction_eq j t hconflict hparked]
  exact
    { rest := ⟨rfl, rfl, hparked⟩
      pos := rfl
      sdo := rfl
      busConflict := hconflict
      platform := h.platform
      cfg := h.cfg
      opened := congrArg (· && !j.closing) h.opened
      res := rfl
      status := rfl
      wire := by
        simp only [h.wire, setMark, List.modify_modify_eq, htake]
        rfl
      line := by simp only [h.line, htake]
      chain := by simp only [h.chain, h.platform, h.draws, htake] }

/-- After a byte the transaction goes on, or is complete if the byte was the last. -/
theorem Progress.afterByte {s t : State} {j : Job} {m : Nat} (h : Progress s j m t) :
    (m < j.payload.length ∧ t.afterByte j = t) ∨
      (j.payload.length ≤ m ∧ Completed s j (t.afterByte j)) := by
  obtain ⟨hmore, heq⟩ | ⟨hlast, heq⟩ := afterByte_cases j t
  · exact .inl ⟨h.pos ▸ hmore, heq⟩
  · have hm := h.pos ▸ hlast
    exact .inr ⟨hm, heq ▸ h.complete hm⟩

/-! ### Every schedule -/

/-- How the operation `j`, the last of WIRE in `s`, stands in a state that a run reaches: another record follows
its own; or it is under way; or it has ended, failed, or complete with the chain latched. -/
inductive Standing (s : State) (j : Job) (t : State) : Prop where
  | followed (h : s.wire.length < t.wire.length)
  | underWay (m : Nat) (hm : m < j.payload.length) (h : Progress s j m t)
  | failed (hrest : AtRest t) (hlength : t.wire.length = s.wire.length)
      (h : ∀ r, t.wire[j.index]? = some r → r.mark = .failed)
  | complete (hrest : AtRest t)
      (hwire : t.wire = s.wire.modify j.index fun r =>
        { r with bytes := r.bytes ++ j.payload, mark := .complete })
      (hchain : t.chain = (j.payload.foldl (fun c v => c.takeByte s.platform.chainLen v) s.chain).latch
        s.platform.chainLen s.draws)

theorem Completed.standing {s t : State} {j : Job} (h : Completed s j t) : Standing s j t :=
  .complete h.rest h.wire h.chain

/-- A failure with nothing waiting ends the operation with its record failed (R88). -/
theorem failTransaction_standing {t : State} {s : State} (j : Job) (cause : Nat) (hp : t.parked = [])
    (hlength : t.wire.length = s.wire.length) :
    Standing s j (t.failTransaction j cause) := by
  rw [failTransaction_eq j cause t hp]
  refine .failed ⟨rfl, rfl, hp⟩ ((setMark_length _ _ _).trans hlength) fun r hr => ?_
  rw [setMark_getElem?_self] at hr
  obtain ⟨r', -, rfl⟩ := Option.map_eq_some_iff.1 hr
  rfl

/-- What one effect makes of a transaction under way on a configured block. -/
theorem Progress.effect {s t u : State} {j : Job} {m : Nat} (hs : Progress s j m t)
    (hm : m < j.payload.length) (hcfg : s.cfg ≠ none) (h : Effect t u) : Standing s j u := by
  obtain ⟨-, hparked⟩ := hs.noOverlap
  have ours {j' : Job} (hj : t.job = some j') : j' = j :=
    Option.some.inj (hj.symm.trans hs.sending.2)
  have notFirst (hd : t.initDone = false) : False :=
    hcfg (hs.cfg.symm.trans (cfg_eq_none_of_not_initDone hd))
  cases h with
  | answer | quiet => exact .underWay m hm (hs.outside _ _ _ _ _ _)
  | configure n b d v hd | startupError d hd => exact (notFirst hd).elim
  | start c p cl =>
    exact .followed (hs.wire_length ▸ startTransaction_wire_length p cl t)
  | byte v j' hv hj hp =>
    obtain rfl := ours hj.2
    have hnext := hs.emit hv (hs.pos ▸ hp)
    obtain ⟨hmore, heq⟩ | ⟨-, hcomplete⟩ := hnext.afterByte
    · rw [heq]
      exact .underWay (m + 1) hmore hnext
    · exact hcomplete.standing
  | failBefore j' c hj =>
    obtain rfl := ours hj.2
    exact failTransaction_standing j' c hparked hs.wire_length
  | failAfter v j' c hv hj hp =>
    obtain rfl := ours hj.2
    have hnext := hs.emit hv (hs.pos ▸ hp)
    exact failTransaction_standing j' c hnext.noOverlap.2 hnext.wire_length
  | complete j' hj hlast =>
    obtain rfl := ours hj
    have := hs.pos
    omega
  | issue n =>
    obtain h | ⟨r, rest, -, -, h⟩ := issue_cases n t <;> rw [h]
    · exact .underWay m hm hs
    · exact .underWay m hm (hs.outside _ _ _ _ _ _)

/-- What a step makes of an operation that is the last of WIRE. -/
theorem Standing.step {s t u : State} {j : Job} (hs : Standing s j t) (hcfg : s.cfg ≠ none)
    (h : step t = .next u) : Standing s j u := by
  cases hs with
  | followed hlength => exact .followed (hlength.trans_le (step_wire_length h))
  | underWay m hm hprogress =>
    obtain ⟨t', hprepared, heffect⟩ := step_effect h
    obtain ⟨ts, b, rfl⟩ := prepared_eq_of_not_waiting hprepared hprogress.noOverlap.2
    exact Progress.effect (hprogress.outside _ _ _ _ _ _) hm hcfg heffect
  | failed hrest hlength hfailed =>
    obtain hlonger | ⟨hrest', hwire, -⟩ := hrest.step h
    · exact .followed (hlength ▸ hlonger)
    · exact .failed hrest' (hwire ▸ hlength) (hwire ▸ hfailed)
  | complete hrest hwire hchain =>
    obtain hlonger | ⟨hrest', hwire', hchain'⟩ := hrest.step h
    · exact .followed (by rwa [hwire, List.length_modify] at hlonger)
    · exact .complete hrest' (hwire'.trans hwire) (hchain'.trans hchain)

/-- An operation that has ended, was not failed by the bus and is still the last of WIRE is complete. -/
theorem Standing.complete_of_ended {s t : State} {j : Job} (hs : Standing s j t)
    (hrecord : s.wire[j.index]? = some ⟨j.requester, [], .running⟩) (hended : TransactionEnded j.index t)
    (hok : BusOk j.index t) (hlast : t.wire.length = s.wire.length) :
    t.wire = s.wire.modify j.index (fun r => { r with bytes := r.bytes ++ j.payload, mark := .complete }) ∧
      t.chain = (j.payload.foldl (fun c v => c.takeByte s.platform.chainLen v) s.chain).latch
        s.platform.chainLen s.draws := by
  obtain ⟨r, hr, hmark⟩ := hended
  cases hs with
  | followed hlonger => exact absurd hlonger (hlast ▸ Nat.lt_irrefl _)
  | underWay m _ h =>
    have hrunning : r.mark = .running := by
      rw [h.wire, List.getElem?_modify_eq, hrecord] at hr
      cases hr
      rfl
    exact absurd hrunning hmark
  | failed _ _ h => exact absurd (h r hr) (hok r hr)
  | complete _ hwire hchain => exact ⟨hwire, hchain⟩

end Sys2Proof.Machine
end

section
/-! One transaction that nothing disturbs (R84, R86, R87): one byte a step, to completion. -/

namespace Sys2Proof.Machine

/-- The step of a byte of the code book sends that byte (R50, R51, R84). -/
theorem exec_of_isCodeByte {v : Byte} (hv : isCodeByte v = true) :
    ∃ i, decodeByte v = .ok i ∧ ∀ s, exec i s = s.sendByte v := by
  obtain ⟨rfl, hd⟩ | ⟨rfl, hd⟩ | ⟨rfl, hd⟩ := decodeByte_of_isCodeByte hv
  · exact ⟨_, hd, fun _ => rfl⟩
  · exact ⟨_, hd, fun _ => rfl⟩
  · exact ⟨_, hd, fun _ => rfl⟩

theorem completeTransaction_port (j : Job) (s : State) : (s.completeTransaction j).port = none := by
  obtain ⟨-, -, -, -, -, hport, -⟩ := releaseFramer_keeps
    { (s.markEnd j .complete s.completionStatus).latchChain with
      port := none, res := some ⟨j.requester, .status s.completionStatus⟩ }
  exact hport

/-- A step of the framer lays down no request and no turn. -/
theorem undisturbed_afterByte {s : State} (j : Job) (h : Undisturbed s) : Undisturbed (s.afterByte j) := by
  obtain ⟨hport, hturns⟩ := h
  refine ⟨?_, fun t ht => hturns t ((afterByte_keeps j s).turns ▸ ht)⟩
  obtain ⟨-, h⟩ | ⟨-, h⟩ := afterByte_cases j s <;> rw [h]
  · exact hport
  · exact completeTransaction_port j s

/-- The state in which the framer's free turn runs: the turn is taken, and the bus does not fail. -/
def State.framerTurn (s : State) : State := { s.tick with turns := s.turns.tail, bus := .ok }

/-- Undisturbed, a step sends the next byte, and the transaction is complete if it was the last. -/
theorem Progress.step_undisturbed {s t : State} {j : Job} {m : Nat} {v : Byte} (h : Progress s j m t)
    (hu : Undisturbed t) (hv : isCodeByte v = true) (hp : j.payload[m]? = some v) :
    ∃ u, step t = .next u ∧ Undisturbed u ∧
      ((m + 1 < j.payload.length ∧ Progress s j (m + 1) u) ∨
        (j.payload.length ≤ m + 1 ∧ Completed s j u)) := by
  obtain ⟨i, hd, hexec⟩ := exec_of_isCodeByte hv
  have hturn : Progress s j m t.framerTurn := h.outside t.port none none t.programs t.turns.tail .ok
  have hnext := hturn.emit hv hp
  have hstep : step t = .next ((t.framerTurn.emit v j).afterByte j) := by
    rw [step_of_byte hu h.noOverlap.2 h.sending (h.pos ▸ hp) hd]
    exact (hexec t.framerTurn).trans (sendByte_eq v hturn.sending)
  have hundisturbed : Undisturbed (t.framerTurn.emit v j) := by
    obtain ⟨hport, hturns⟩ := hu
    rw [emit_eq_sent v j _ hv hturn.noOverlap.1]
    exact ⟨hport, fun u hmem => hturns u (List.mem_of_mem_tail hmem)⟩
  refine ⟨_, hstep, undisturbed_afterByte j hundisturbed, ?_⟩
  obtain ⟨hmore, heq⟩ | hlast := hnext.afterByte
  · exact .inl ⟨hmore, heq.symm ▸ hnext⟩
  · exact .inr hlast

/-- Undisturbed, the transaction is complete after one step for each byte still to send. -/
theorem Progress.run_undisturbed {s t : State} {j : Job} {m n : Nat} (h : Progress s j m t)
    (hu : Undisturbed t) (hcode : ∀ v ∈ j.payload, isCodeByte v = true)
    (hn : m + (n + 1) = j.payload.length) :
    ∃ u, Host.Core.run core (n + 1) t = .next u ∧ Undisturbed u ∧ Completed s j u := by
  induction n generalizing m t with
  | zero =>
    have hp := List.getElem?_eq_getElem (show m < j.payload.length by omega)
    obtain ⟨u, hstep, hu', ⟨hmore, -⟩ | ⟨-, hcomplete⟩⟩ :=
      h.step_undisturbed hu (hcode _ (List.mem_of_getElem? hp)) hp
    · omega
    · exact ⟨u, run_succ 0 hstep, hu', hcomplete⟩
  | succ n ih =>
    have hp := List.getElem?_eq_getElem (show m < j.payload.length by omega)
    obtain ⟨u, hstep, hu', ⟨-, hnext⟩ | ⟨hlast, -⟩⟩ :=
      h.step_undisturbed hu (hcode _ (List.mem_of_getElem? hp)) hp
    · rw [run_succ (n + 1) hstep]
      exact ih hnext hu' (by omega)
    · omega

/-! ### From the request to the end -/

/-- The bus operation that a request accepted on an idle bus begins (R82). -/
def State.acceptedJob (s : State) (p : Payload) (cl : Bool) : Job := ⟨s.caller, p, cl, s.wire.length⟩

theorem beginTransaction_progress {s : State} (p : Payload) (cl : Bool) (hs : NoOverlap s) :
    Progress (s.beginTransaction p cl) (s.acceptedJob p cl) 0 (s.beginTransaction p cl) :=
  .zero ⟨rfl, rfl⟩ hs rfl

/-- The record of the accepted operation, when its bytes are out. -/
theorem beginTransaction_wire_modify (s : State) (p : Payload) (cl : Bool) :
    (s.beginTransaction p cl).wire.modify (s.acceptedJob p cl).index
        (fun r => { r with bytes := r.bytes ++ p, mark := .complete }) =
      s.wire ++ [⟨s.caller, p, .complete⟩] := modify_last s.wire _ _

/-- Settles O44: the transaction runs to completion when nothing disturbs it; under any schedule it stands
complete if it has ended, was not failed, and is still the last. The latch then shows the Frame. -/
theorem showDisplaysScaledFrame : Obligations.ShowDisplaysScaledFrame := by
  intro s c f hconfigured hidle hs hlength hmatches hfits hk
  obtain ⟨hshadow, hdisplay⟩ := hfits
  rw [hmatches, ← hlength] at hshadow hdisplay
  generalize hp : encodeFrame scale c.brightness f = p
  have hwf : payloadWellFormed c.ledCount p = true :=
    hp ▸ hlength ▸ encodeFrame_wellFormed scale c.brightness f
  have hshown (d : Nat) :
      ((p.foldl (fun c v => c.takeByte s.platform.chainLen v) s.chain).latch s.platform.chainLen d).display =
        f.map (shownColor scale c.brightness) := by
    rw [← hp, hmatches, ← hlength]
    exact latch_encodeFrame_display scale c.brightness f d hk hshadow hdisplay
  have hstart := beginTransaction_progress p false hs
  refine ⟨s.beginTransaction p false, ?_, fun hgo => ?_, fun k t hrun hended hok hlast => ?_⟩
  · rw [exec_showFrame f hconfigured, if_pos hlength, startTransaction_eq_begin _ _ s hidle, hp]
  · obtain ⟨t, hrun, -, hcomplete⟩ := hstart.run_undisturbed (n := 24 * c.ledCount + 63) ⟨rfl, hgo⟩
      (fun v hv => payloadWellFormed_mem hwf hv) ((Nat.zero_add _).trans (payloadWellFormed_length hwf).symm)
    refine ⟨t, hrun, hcomplete.res, hcomplete.wire.trans (beginTransaction_wire_modify s p false), ?_, ?_⟩
    · rw [hcomplete.chain, latch_k]
    · rw [hcomplete.chain]
      exact hshown _
  · have hmore : 0 < p.length := by rw [payloadWellFormed_length hwf]; omega
    have hcfg : (s.beginTransaction p false).cfg ≠ none := by
      rw [State.beginTransaction_cfg, hconfigured.2]
      exact Option.some_ne_none c
    have hstanding : Standing (s.beginTransaction p false) (s.acceptedJob p false) t :=
      run_induction (fun _ _ h hstep => h.step hcfg hstep) (.underWay 0 hmore hstart) hrun
    obtain ⟨hwire, hchain⟩ := hstanding.complete_of_ended
      (by rw [State.beginTransaction_wire]; exact List.getElem?_concat_length) hended hok
      (by rw [hlast, State.beginTransaction_wire, List.length_append]; rfl)
    refine ⟨hwire.trans (beginTransaction_wire_modify s p false), ?_, ?_⟩
    · rw [hchain, latch_k]
    · rw [hchain]
      exact hshown _

end Sys2Proof.Machine
end

section
/-! The two encoding spaces (R46 to R59): the encoder's operands read back, what the decoder takes, the packed
triple, and the bytes on the line (R55). -/

namespace Sys2Proof.Machine

/-! ### Operands read back -/

/-- A byte is in its own range (R46, R101). -/
theorem byteOfInt?_toNat (v : Byte) : byteOfInt? v.toNat = some v := by
  have hrange : 0 ≤ (v.toNat : Int) ∧ (v.toNat : Int) ≤ 255 := by have := v.isLt; omega
  rw [byteOfInt?, if_pos hrange, Int.toNat_natCast, BitVec.ofNat_toNat, BitVec.setWidth_eq]

theorem toRgb?_toRaw (t : Rgb) : t.toRaw.toRgb? = some t := by
  simp [RawRgb.toRgb?, Rgb.toRaw, byteOfInt?_toNat]

theorem frameOfRaw?_map_toRaw (f : Frame) : frameOfRaw? (f.map Rgb.toRaw) = some f := by
  induction f with
  | nil => rfl
  | cons t f ih => simp [frameOfRaw?, toRgb?_toRaw, ih]

theorem payloadOfRaw?_map_toNat (p : Payload) :
    payloadOfRaw? (p.map fun v => (v.toNat : Int)) = some p := by
  induction p with
  | nil => rfl
  | cons v p ih => simp [payloadOfRaw?, byteOfInt?_toNat, ih]

/-- Configuration values in their domains are read as the INIT they belong to (R16, R48, R81). -/
theorem initOfRaw?_of_legal (n : Nat) {b v : Ratio} (d : Option DeviceName) (hb : b.isBrightness = true)
    (hv : v.isRate = true) : initOfRaw? ⟨n, b.num, b.den, d, v⟩ = some (.init n b d v) := by
  obtain ⟨hden, hnum⟩ : 0 < b.den ∧ b.num ≤ b.den := by simpa [Ratio.isBrightness] using hb
  have hlegal : (0 : Int) ≤ n ∧ (0 : Int) < b.den ∧ (0 : Int) ≤ b.num ∧ (b.num : Int) ≤ b.den ∧
      v.isRate = true := ⟨by omega, by omega, by omega, by omega, hv⟩
  rw [initOfRaw?, if_pos hlegal]
  rfl

/-- Settles O4: each operand is read back from the form the operand port carries it in; in a Frame and in a
payload element by element. -/
theorem decodeEncodeRoundTrip : Obligations.DecodeEncodeRoundTrip := by
  intro i hi
  cases i with
  | init n b d v =>
    obtain ⟨hb, hv⟩ : b.isBrightness = true ∧ v.isRate = true := by simpa [Instr.wellFormed] using hi
    simp [encode, decode, decodeRequest, initOfRaw?_of_legal n d hb hv]
  | encodeLed t => simp [encode, decode, decodeRequest, toRgb?_toRaw t]
  | encodeFrame f | showFrame f => simp [encode, decode, decodeRequest, frameOfRaw?_map_toRaw f]
  | transfer p => simp [encode, decode, decodeRequest, payloadOfRaw?_map_toNat p]
  | shutdown | symZero | symOne | padByte => rfl

/-! ### What the decoder takes -/

/-- A table word that stands for an encoding decodes to the encoded instruction (R58). -/
theorem decodeTableWord_of_encode {nbits w : Nat} {i : Instr} (hw : encodedOfTableWord nbits w = encode i)
    (hi : i.wellFormed = true) : decodeTableWord nbits w = some i := by
  rw [decodeTableWord, hw, decodeEncodeRoundTrip i hi]

/-- Settles O2: the words of the tables are the encodings of their instructions. -/
theorem tableWordsDecode : Obligations.TableWordsDecode :=
  ⟨decodeTableWord_of_encode rfl rfl, decodeTableWord_of_encode rfl rfl, decodeTableWord_of_encode rfl rfl,
    decodeTableWord_of_encode rfl rfl, decodeTableWord_of_encode rfl rfl, decodeTableWord_of_encode rfl rfl,
    decodeEncodeRoundTrip .symZero rfl, decodeEncodeRoundTrip .symOne rfl,
    decodeEncodeRoundTrip .padByte rfl⟩

/-- A selector that names no operation is read as none whatever stands on the operand port (R59). -/
theorem decodeRequest_of_unknownSelector {op : Selector} (h : op = 0b110#3 ∨ op = 0b111#3) (o : Operand) :
    decodeRequest op o = .error (.unknownSelector op) := by
  obtain rfl | rfl := h <;> rfl

/-- With an empty operand port the six selectors that name an operation are not unknown (R58). -/
theorem unknownSelector_of_decodeRequest_none (op : Selector) :
    decodeRequest op .none = .error (.unknownSelector op) → op = 0b110#3 ∨ op = 0b111#3 := by
  revert op
  decide

/-- A request that decodes to nothing is refused, with the decoder's reason. -/
theorem step_of_port_error {s : State} {p : Port} {e : DecodeError} (hp : s.port = some p)
    (hd : decodeRequest p.op p.opnd = .error e) : step s = .refused (.badRequest e) := by
  simp [step, fetch, hp, fetchRequest, hd, runFetched]

/-- Settles O1: the empty operand port tells the six named selectors from the two unknown ones. -/
theorem unknownSelectorsRefused : Obligations.UnknownSelectorsRefused :=
  ⟨fun op => ⟨decodeRequest_of_unknownSelector, fun h => unknownSelector_of_decodeRequest_none op (h .none)⟩,
    fun _ p hport hop => step_of_port_error hport (decodeRequest_of_unknownSelector hop p.opnd)⟩

/-- Settles O3: the decoder of payload bytes compares with the three bytes of the code book. -/
theorem onlyCodeBookBytesDecode : Obligations.OnlyCodeBookBytesDecode := by
  refine fun v => ⟨fun ⟨i, hi⟩ => ?_, ?_⟩
  · by_contra hv
    obtain ⟨hzero, hone, hpad⟩ : v ≠ 0x04#8 ∧ v ≠ 0x06#8 ∧ v ≠ 0x00#8 := by simpa using hv
    simp [decode, decodeByte, hzero, hone, hpad] at hi
  · rintro (rfl | rfl | rfl)
    · exact ⟨.symZero, rfl⟩
    · exact ⟨.symOne, rfl⟩
    · exact ⟨.padByte, rfl⟩

/-! ### The packed triple (R47) -/

theorem toNat_append_eq_add {m n : Nat} (x : BitVec m) (y : BitVec n) :
    (x ++ y).toNat = x.toNat * 2 ^ n + y.toNat := by
  rw [BitVec.toNat_append, ← Nat.shiftLeft_add_eq_or_of_lt y.isLt, Nat.shiftLeft_eq]

theorem toWord24_toNat (t : Rgb) :
    t.toWord24.toNat = t.r.toNat * 2 ^ 16 + t.g.toNat * 2 ^ 8 + t.b.toNat := by
  rw [Rgb.toWord24, toNat_append_eq_add, toNat_append_eq_add]
  ring

theorem ofWord24_toWord24 (t : Rgb) : Rgb.ofWord24 t.toWord24 = t := by
  obtain ⟨r, g, b⟩ := t
  rw [Rgb.toWord24, Rgb.ofWord24, BitVec.extractLsb'_append_eq_of_le (by decide),
    BitVec.extractLsb'_append_eq_left, BitVec.extractLsb'_append_eq_of_le (by decide),
    BitVec.extractLsb'_append_eq_right, BitVec.extractLsb'_append_eq_right]

theorem toWord24_ofWord24 (w : Word24) : (Rgb.ofWord24 w).toWord24 = w := by
  calc (w.extractLsb' 16 8 ++ w.extractLsb' 8 8) ++ w.extractLsb' 0 8
      = w.extractLsb' 8 16 ++ w.extractLsb' 0 8 :=
        congrArg (· ++ w.extractLsb' 0 8) (BitVec.extractLsb'_append_extractLsb'_eq_extractLsb' rfl)
    _ = w.extractLsb' 0 24 := BitVec.extractLsb'_append_extractLsb'_eq_extractLsb' rfl
    _ = w := BitVec.extractLsb'_eq_self

/-- Settles O5: the channels are the three bytes of the word, and the decoder unpacks them. -/
theorem packedTriple : Obligations.PackedTriple :=
  ⟨toWord24_toNat, ofWord24_toWord24, toWord24_ofWord24,
    fun t => congrArg (fun c => Except.ok (Instr.encodeLed c)) (ofWord24_toWord24 t)⟩

/-! ### The bytes on the line (R55) -/

/-- Settles O47: the six patterns of the symbols as they stand, the pad byte low throughout, and each symbol one
pulse. -/
theorem wirePatterns : Obligations.WirePatterns :=
  ⟨rfl, rfl, rfl, rfl, rfl, rfl, wirePattern_pad, fun m d => by
    have hpulse := highRunsFrom_symbol m d []
    rwa [List.append_nil] at hpulse⟩

end Sys2Proof.Machine
end

section
/-! Requests on an open block: in their domains they are not refused (R129), and what the pseudo-operations send
(R61 to R63). -/

namespace Sys2Proof.Machine

/-! ### Requests in their domains -/

theorem exec_transfer {s : State} {c : CfgRegs} (p : Payload) (h : Configured s c) :
    exec (.transfer p) s =
      if payloadWellFormed c.ledCount p then .next (s.startTransaction p false)
      else .refused .malformedPayload := by
  simp only [exec, execTransfer, operative_eq_some.2 h]

theorem exec_shutdown {s : State} {c : CfgRegs} (h : Configured s c) :
    exec .shutdown s =
      .next (s.startTransaction (encodeFrame scale c.brightness (blackFrame c.ledCount)) true) := by
  simp only [exec, execShutdown, operative_eq_some.2 h]

/-- On an open block a request other than INIT whose operand fits the configuration answers a next state
(R94, R35, R83). -/
theorem exec_next_of_inDomain {s : State} {c : CfgRegs} {i : Instr} {op : Selector} {o : Operand}
    (hc : Configured s c) (he : encode i = .request op o) (hop : op ≠ 0b000#3)
    (hi : inDomainFor c.ledCount i = true) : ∃ t, exec i s = .next t := by
  cases i with
  | init =>
    cases he
    exact absurd rfl hop
  | encodeLed t => exact ⟨_, exec_encodeLed t hc⟩
  | encodeFrame f => exact ⟨_, (exec_encodeFrame f hc).trans (if_pos (beq_iff_eq.1 hi))⟩
  | transfer p => exact ⟨_, (exec_transfer p hc).trans (if_pos hi)⟩
  | showFrame f => exact ⟨_, (exec_showFrame f hc).trans (if_pos (beq_iff_eq.1 hi))⟩
  | shutdown => exact ⟨_, exec_shutdown hc⟩
  | symZero | symOne | padByte => cases he

/-- The request on the port is one of those `InRange` speaks of (R129). -/
theorem port_mem_pendingRequests {s : State} {p : Port} (h : s.port = some p) :
    ⟨p.op, p.opnd⟩ ∈ pendingRequests s := by
  simp [pendingRequests, h]

/-- Settles O36: the step runs what the port decodes to, and under `InRange` that has its operand in the domain of
the LED_COUNT in force. -/
theorem stepRunsRequestOnPort : Obligations.StepRunsRequestOnPort := by
  refine ⟨fun s p i hport hdecode => step_of_port hport hdecode, fun s c p hc hrange hport hop => ?_⟩
  obtain ⟨n, hcount, hpending⟩ := hrange
  obtain ⟨i, hdecode, -, hdomain, -⟩ := hpending _ (port_mem_pendingRequests hport)
  obtain ⟨o, hencode⟩ := encode_of_decodeRequest hdecode
  rw [← hcount c hc.2] at hdomain
  rw [step_of_port hport hdecode]
  exact exec_next_of_inDomain (s := s.tick) hc hencode hop hdomain

/-! ### The pseudo-operations -/


/-- Black stays black at every brightness (R64): its fragment is 24 symbols of a data bit 0. -/
theorem encodeLed_black (b : Ratio) : encodeLed scale b Rgb.black = List.replicate 24 0x04#8 := by
  have hzero : scale 0 b = 0 := by simp [scale]
  have hblack : shownColor scale b Rgb.black = ⟨0, 0, 0⟩ := by
    simp only [shownColor, reorder, scaleRgb, Rgb.black, hzero]
  rw [encodeLed, hblack]
  rfl

theorem flatten_replicate_black (b : Ratio) (n : Nat) :
    (List.replicate n (encodeLed scale b Rgb.black)).flatten = List.replicate (24 * n) 0x04#8 := by
  rw [encodeLed_black, List.flatten_replicate_replicate, Nat.mul_comm]

theorem exec_solid {s : State} {c : CfgRegs} (x : Rgb) (h : Configured s c) :
    exec (solid c.ledCount x) s = .next (s.startTransaction
      ((List.replicate c.ledCount (encodeLed scale c.brightness x)).flatten ++ pad) false) := by
  rw [solid, exec_showFrame _ h, if_pos List.length_replicate, encodeFrame, List.flatMap_replicate]

/-- Settles O29: each is a SHOW of a Frame of LED_COUNT triples, made of runs of equal triples; CLEAR is SOLID of
black. -/
theorem pseudoOperationsAreShows : Obligations.PseudoOperationsAreShows := by
  intro s c n x hc hn
  refine ⟨exec_solid x hc, ?_, ?_⟩
  · have hlength : (List.replicate n x ++ List.replicate (c.ledCount - n) Rgb.black).length = c.ledCount := by
      rw [List.length_append, List.length_replicate, List.length_replicate, Nat.add_sub_cancel' hn]
    rw [bar, exec_showFrame _ hc, if_pos hlength, encodeFrame, List.flatMap_append, List.flatMap_replicate,
      List.flatMap_replicate, flatten_replicate_black]
  · rw [clear, exec_solid Rgb.black hc, flatten_replicate_black]

end Sys2Proof.Machine
end

section
/-! The encoder's arithmetic (R64, R75 to R77): SCALE as a floor, its end points, and its two monotonicities. -/

namespace Sys2Proof.Machine

theorem isBrightness_iff (b : Ratio) : b.isBrightness = true ↔ 0 < b.den ∧ b.num ≤ b.den := by
  simp [Ratio.isBrightness]

/-! ### SCALE -/

/-- A legal brightness takes no number above itself. -/
theorem mul_num_div_den_le {b : Ratio} (hb : b.isBrightness = true) (n : Nat) : n * b.num / b.den ≤ n := by
  obtain ⟨-, hle⟩ := (isBrightness_iff b).1 hb
  refine Nat.div_le_of_le_mul ?_
  rw [Nat.mul_comm b.den n]
  exact Nat.mul_le_mul_left n hle

/-- The quotient is a channel value again, so no bit of it is lost. -/
theorem scale_toNat (c : Chan) {b : Ratio} (hb : b.isBrightness = true) :
    (scale c b).toNat = c.toNat * b.num / b.den := by
  rw [scale, BitVec.toNat_ofNat]
  exact Nat.mod_eq_of_lt ((mul_num_div_den_le hb c.toNat).trans_lt c.isLt)

theorem scale_toNat_eq_floor (c : Chan) {b : Ratio} (hb : b.isBrightness = true) :
    ((scale c b).toNat : ℤ) = ⌊(c.toNat : ℚ) * ((b.num : ℚ) / (b.den : ℚ))⌋ := by
  rw [scale_toNat c hb, ← mul_div_assoc, ← Nat.cast_mul, Rat.floor_natCast_div_natCast, Int.natCast_div]

/-- Settles O7: the rational floor is the integer quotient, which stays below the channel. -/
theorem scaleIsFloorOfProduct : Obligations.ScaleIsFloorOfProduct := fun c _ hb =>
  ⟨scale_toNat_eq_floor c hb, scale_toNat c hb, (scale_toNat c hb).trans_le (mul_num_div_den_le hb c.toNat)⟩

/-- Settles O9: the floors of two rational products compare as the products do. -/
theorem scaleMonotoneInBrightness : Obligations.ScaleMonotoneInBrightness := by
  intro c b₁ b₂ hb₁ hb₂ hlt
  have hden₁ : (0 : ℚ) < b₁.den := Nat.cast_pos.2 ((isBrightness_iff b₁).1 hb₁).1
  have hden₂ : (0 : ℚ) < b₂.den := Nat.cast_pos.2 ((isBrightness_iff b₂).1 hb₂).1
  have hle : (b₁.num : ℚ) / b₁.den ≤ b₂.num / b₂.den := (div_le_div_iff₀ hden₁ hden₂).2 (mod_cast hlt.le)
  rw [← Int.ofNat_le, scale_toNat_eq_floor c hb₁, scale_toNat_eq_floor c hb₂]
  exact Int.floor_le_floor (mul_le_mul_of_nonneg_left hle (Nat.cast_nonneg _))

/-- Settles O10: product and quotient by one number are monotone. -/
theorem scaleMonotoneInChannel : Obligations.ScaleMonotoneInChannel := by
  intro c₁ c₂ b hb hle
  rw [scale_toNat c₁ hb, scale_toNat c₂ hb]
  exact Nat.div_le_div_right (Nat.mul_le_mul_right _ hle)

/-! ### Full and zero brightness (R75) -/

theorem scale_full (c : Chan) {b : Ratio} (hb : b.isBrightness = true) (hfull : b.num = b.den) :
    scale c b = c := by
  obtain ⟨hden, -⟩ := (isBrightness_iff b).1 hb
  refine BitVec.eq_of_toNat_eq ?_
  rw [scale_toNat c hb, hfull, Nat.mul_div_cancel _ hden]

theorem scale_zero (c : Chan) {b : Ratio} (hzero : b.num = 0) : scale c b = 0 := by
  rw [scale, hzero, Nat.mul_zero, Nat.zero_div]
  rfl

theorem encodeLed_full {b : Ratio} (hb : b.isBrightness = true) (hfull : b.num = b.den) (t : Rgb) :
    encodeLed scale b t = fragmentOf (reorder t) := by
  simp only [encodeLed, shownColor, scaleRgb, scale_full _ hb hfull]

/-- At zero brightness every triple is sent as black is. -/
theorem encodeLed_zero {b : Ratio} (hzero : b.num = 0) (t : Rgb) :
    encodeLed scale b t = List.replicate 24 0x04#8 := by
  have hsame : shownColor scale b t = shownColor scale b Rgb.black := by
    simp only [shownColor, scaleRgb, scale_zero _ hzero]
  rw [encodeLed, hsame, ← encodeLed, encodeLed_black]

/-- Settles O8: SCALE at the end points, and so every fragment of the payload. -/
theorem brightnessEndPoints : Obligations.BrightnessEndPoints := by
  refine ⟨fun c b hb hfull => scale_full c hb hfull, fun c b _ hzero => scale_zero c hzero,
    fun b f hb hfull => ?_, fun b f _ hzero => ?_⟩
  · rw [encodeFrame, funext (encodeLed_full hb hfull)]
  · rw [encodeFrame, funext (encodeLed_zero hzero), List.flatMap_def, List.map_const',
      List.flatten_replicate_replicate, Nat.mul_comm]

end Sys2Proof.Machine
end

section
/-! Reading the encoder's output back (R72, R73, R79): symbols, fragments, and what a payload determines. -/

namespace Sys2Proof.Machine

/-! ### Symbols (R72) -/

theorem eq_symbol_of_decodeSymbol {v : Byte} {d : Bool} (h : decodeSymbol v = some d) : v = symbol d := by
  simp only [decodeSymbol] at h
  split at h
  · next hone =>
    cases h
    exact hone
  · split at h
    · next hzero =>
      cases h
      exact hzero
    · cases h

theorem symbol_getLsbD_one (d : Bool) : (symbol d).getLsbD 1 = d := by cases d <;> rfl

/-- Settles O11: DECODE_SYMBOL inverts SYMBOL and takes nothing else. -/
theorem decodeSymbolReadsSymbolsOnly : Obligations.DecodeSymbolReadsSymbolsOnly := by
  refine ⟨decodeSymbol_symbol, fun v d h => ?_, fun v hzero hone => (if_neg hone).trans (if_neg hzero)⟩
  obtain rfl := eq_symbol_of_decodeSymbol h
  exact ⟨rfl, (symbol_getLsbD_one d).symm⟩

theorem symbol_injective : Function.Injective symbol := fun d e h => by
  rw [← symbol_getLsbD_one d, h, symbol_getLsbD_one]

/-! ### Fragments (R73) -/

theorem mapM_decodeSymbol_symbol (bits : List Bool) : (bits.map symbol).mapM decodeSymbol = some bits := by
  induction bits with
  | nil => rfl
  | cons d bits ih => simp [decodeSymbol_symbol, ih]

theorem mapM_decodeSymbol_of_mem_none {f : List Byte} {v : Byte} (hmem : v ∈ f)
    (hv : decodeSymbol v = none) : f.mapM decodeSymbol = none := by
  obtain ⟨before, after, rfl⟩ := List.append_of_mem hmem
  simp [List.mapM_append, hv]

theorem decodeFragment_fragmentOf (c : Grb) : decodeFragment (fragmentOf c) = some c := by
  have hcolor : shadowColor (grbBits c) 0 = c := shadowColor_grbBits _ [] 0 c (List.append_nil _).symm
  rw [decodeFragment, if_pos (fragmentOf_length c), fragmentOf_eq, mapM_decodeSymbol_symbol, Option.map_some,
    hcolor]

/-- Settles O12: the fragment's symbols are read back bit by bit, and one byte that is no symbol spoils all. -/
theorem fragmentRoundTrip : Obligations.FragmentRoundTrip := by
  refine ⟨fun sc b t => decodeFragment_fragmentOf (shownColor sc b t), fun f v hmem hv => ?_⟩
  rw [decodeFragment, mapM_decodeSymbol_of_mem_none hmem hv, Option.map_none, ite_self]

/-! ### What a payload determines (R79) -/

theorem chanBits_injective : Function.Injective chanBits :=
  Function.LeftInverse.injective chanOfBits_chanBits

theorem encodeByte_injective : Function.Injective encodeByte :=
  (List.map_injective_iff.2 symbol_injective).comp chanBits_injective

theorem fragmentOf_injective : Function.Injective fragmentOf := fun c d h => by
  have hdecoded := congrArg decodeFragment h
  rwa [decodeFragment_fragmentOf, decodeFragment_fragmentOf, Option.some_inj] at hdecoded

/-- A concatenation of blocks of one positive length determines its elements when each block does. -/
theorem flatMap_injective_of_length {α β : Type} {g : α → List β} {n : Nat}
    (hg : ∀ a, (g a).length = n + 1) (hinj : Function.Injective g) :
    Function.Injective fun l : List α => l.flatMap g := by
  intro l
  induction l with
  | nil =>
    intro l' h
    cases l' with
    | nil => rfl
    | cons b l' => simpa [hg] using congrArg List.length h.symm
  | cons a l ih =>
    intro l' h
    cases l' with
    | nil => simpa [hg] using congrArg List.length h
    | cons b l' =>
      obtain ⟨hhead, htail⟩ := List.append_inj (by simpa only [List.flatMap_cons] using h)
        ((hg a).trans (hg b).symm)
      rw [hinj hhead, ih htail]

/-- A payload is a function of the shown colors alone. -/
theorem encodeFrame_eq_fragments (sc : ScaleFn) (b : Ratio) (f : Frame) :
    encodeFrame sc b f = (f.map (shownColor sc b)).flatMap fragmentOf ++ pad := by
  rw [List.flatMap_map]
  rfl

/-- Settles O13: without the reset block, the payload is the fragments of the shown colors, 24 bytes each. -/
theorem payloadDeterminesScaledColors : Obligations.PayloadDeterminesScaledColors := by
  refine ⟨fun v w h => encodeByte_injective h, fun sc b f g => ?_⟩
  rw [encodeFrame_eq_fragments, encodeFrame_eq_fragments, List.append_cancel_right_eq]
  exact (flatMap_injective_of_length fragmentOf_length fragmentOf_injective).eq_iff

end Sys2Proof.Machine
end

section
/-! The encoder's two operations answered in full (R68, R70, R71). -/

namespace Sys2Proof.Machine

theorem encodeLed_eq (sc : ScaleFn) (b : Ratio) (t : Rgb) :
    encodeLed sc b t = encodeByte (sc t.g b) ++ encodeByte (sc t.r b) ++ encodeByte (sc t.b b) := rfl

/-- Settles O19: the answer goes out by `respond`, which touches RES and the request port only. -/
theorem encodeLedAnswers : Obligations.EncodeLedAnswers := by
  intro s c t hc
  rw [exec_encodeLed t hc, State.respond, encodeLed_eq]

/-- Settles O20: with the length right, the answer goes out by `respond` as ENCODE_LED's does. -/
theorem encodeFrameAnswers : Obligations.EncodeFrameAnswers := by
  intro s c f hc hlength
  rw [exec_encodeFrame f hc, if_pos hlength, State.respond, encodeFrame, pad, Config.resetPadding,
    Config.padByte]

end Sys2Proof.Machine
end

section
/-! INIT (R81, R94, R100): what refuses it, its two results, and that before it and after SHUTDOWN nothing else
runs. -/

namespace Sys2Proof.Machine

/-! ### The checks of INIT -/

theorem initDone_iff (s : State) : s.initDone = true ↔ s.opened = true ∨ s.cfg ≠ none := by
  rw [State.initDone, Bool.or_eq_true, Option.isSome_iff_ne_none]

theorem initDone_of_fresh {s : State} (ho : s.opened = false) (hc : s.cfg = none) : s.initDone = false := by
  simp [State.initDone, ho, hc]

theorem isRate_iff (v : Ratio) : v.isRate = true ↔ 0 < v.den ∧ 0 < v.num := by
  simp [Ratio.isRate]

theorem deviceOk_eq_some {s : State} {d : DeviceName} (h : d ∉ s.platform.badDevices) :
    s.deviceOk (some d) = some d := by
  simp [State.deviceOk, h]

/-- A missing device is never usable, and a named one is not when the platform says so (R81, R100). -/
theorem deviceOk_eq_none {s : State} {d : Option DeviceName}
    (h : ∀ x, d = some x → x ∈ s.platform.badDevices) :
    s.deviceOk d = none := by
  cases d with
  | none => rfl
  | some x => simp [State.deviceOk, h x rfl]

/-! ### What INIT answers -/

theorem exec_init_of_initDone {s : State} (n : Nat) (b v : Ratio) (d : Option DeviceName)
    (h : s.initDone = true) : exec (.init n b d v) s = .refused .initTwice := if_pos h

section
variable {s : State} {b v : Ratio} {d : Option DeviceName} (n : Nat) (hdone : s.initDone = false)
include hdone

/-- Outside the domains of R81 and R16 INIT is refused. -/
theorem exec_init_of_illegal (hillegal : (b.isBrightness && v.isRate) = false) :
    exec (.init n b d v) s = .refused .illegalParameter := by
  simp [exec, execInit, hdone, hillegal]

variable (hb : b.isBrightness = true) (hv : v.isRate = true)
include hb hv

/-- Without a usable device INIT enters the fault (R81, R100). -/
theorem exec_init_of_no_device (hd : s.deviceOk d = none) :
    exec (.init n b d v) s = .next (s.raiseFault s.caller (.startupError d)) := by
  simp [exec, execInit, hdone, hb, hv, hd]

/-- With a usable device INIT loads CFG and opens the block (R81). -/
theorem exec_init_of_device {x : DeviceName} (hd : s.deviceOk d = some x) :
    exec (.init n b d v) s = .next (State.respond
      { s with cfg := some ⟨n, b, x, v⟩, opened := true, busy := false, pos := 0, sdo := false }
      (.status .ok)) := by
  simp [exec, execInit, hdone, hb, hv, hd]

end

theorem raiseFault_eq_idle (q : Nat) (st : Status) {s : State} (h : s.parked = []) :
    s.raiseFault q st =
      { s with
        busy := false, pos := 0, q := 0, sdo := false, job := none, port := none
        res := some ⟨q, .status st⟩ } :=
  releaseFramer_eq_idle { s with port := none, res := some ⟨q, .status st⟩ } h

/-- Settles O16: the checks pass, and the configured state answers by `respond`. -/
theorem initLoadsConfiguration : Obligations.InitLoadsConfiguration := by
  intro s n b v d ho hc hb hv hd
  rw [exec_init_of_device n (initDone_of_fresh ho hc) hb hv (deviceOk_eq_some hd), State.respond]
  rfl

/-- Settles O17: the device check fails, and fault entry leaves a framer behind which nothing waits idle. -/
theorem initRaisesStartupError : Obligations.InitRaisesStartupError := by
  intro s n b v d ho hc hparked hb hv hd
  rw [exec_init_of_no_device n (initDone_of_fresh ho hc) hb hv (deviceOk_eq_none hd),
    raiseFault_eq_idle _ _ hparked]

/-- Settles O18: the check for an earlier INIT, then the domains of brightness and speed. -/
theorem initRefused : Obligations.InitRefused := by
  refine ⟨fun s n b v d h => exec_init_of_initDone n b v d ((initDone_iff s).2 h),
    fun s n b v d ho hc hillegal => ?_⟩
  refine exec_init_of_illegal n (initDone_of_fresh ho hc) ?_
  rw [← Bool.not_eq_true, Bool.and_eq_true, isBrightness_iff, isRate_iff, and_assoc]
  exact hillegal

/-! ### A block that is not open (R94) -/

theorem operative_eq_none {s : State} (h : s.opened = false) : s.operative = none := by
  simp [State.operative, h]

/-- Settles O25: each of the five operations first asks for the configuration of an open block. -/
theorem refusedWhileNotOpened : Obligations.RefusedWhileNotOpened := by
  intro s h
  have hnone := operative_eq_none h
  refine ⟨fun t => ?_, fun f => ?_, fun p => ?_, fun f => ?_, ?_⟩
  · rw [exec, execEncodeLed, hnone]
  · rw [exec, execEncodeFrame, hnone]
  · rw [exec, execTransfer, hnone]
  · rw [exec, execShow, hnone]
  · rw [exec, execShutdown, hnone]

end Sys2Proof.Machine
end

section
/-! Bus operations accepted on an open block (R82, R90, R92), and their overlap (R95). -/

namespace Sys2Proof.Machine

theorem exec_transfer_of_wellFormed {s : State} {c : CfgRegs} {p : Payload} (hc : Configured s c)
    (hp : payloadWellFormed c.ledCount p = true) :
    exec (.transfer p) s = .next (s.startTransaction p false) :=
  (exec_transfer p hc).trans (if_pos hp)

theorem exec_showFrame_of_length {s : State} {c : CfgRegs} {f : Frame} (hc : Configured s c)
    (hlength : f.length = c.ledCount) :
    exec (.showFrame f) s = .next (s.startTransaction (encodeFrame scale c.brightness f) false) :=
  (exec_showFrame f hc).trans (if_pos hlength)

theorem blackFrame_length (n : Nat) : (blackFrame n).length = n := List.length_replicate

theorem encodeFrame_blackFrame_wellFormed (b : Ratio) (n : Nat) :
    payloadWellFormed n (encodeFrame scale b (blackFrame n)) = true := by
  have h := encodeFrame_wellFormed scale b (blackFrame n)
  rwa [blackFrame_length] at h

/-- The payload of a SHUTDOWN is the same at every brightness (R92). -/
theorem encodeFrame_blackFrame (b : Ratio) (n : Nat) :
    encodeFrame scale b (blackFrame n) = List.replicate (24 * n) 0x04#8 ++ List.replicate 64 0x00#8 := by
  rw [encodeFrame, blackFrame, List.flatMap_replicate, flatten_replicate_black]
  rfl

/-- Settles O22: on an idle bus the accepted operation begins. -/
theorem transferAccepted : Obligations.TransferAccepted := by
  intro s c p hc hidle hp
  rw [exec_transfer_of_wellFormed hc hp, startTransaction_eq_begin p false s hidle]
  rfl

/-- Settles O23: the encoding of a Frame is well-formed, so that TRANSFER starts it as SHOW does. -/
theorem showIsTransferOfEncodedFrame : Obligations.ShowIsTransferOfEncodedFrame := by
  intro s c f hc hlength
  have hp : payloadWellFormed c.ledCount (encodeFrame scale c.brightness f) = true :=
    hlength ▸ encodeFrame_wellFormed scale c.brightness f
  have hsame : exec (.showFrame f) s = exec (.transfer (encodeFrame scale c.brightness f)) s :=
    (exec_showFrame_of_length hc hlength).trans (exec_transfer_of_wellFormed hc hp).symm
  exact ⟨hsame, fun hidle => hsame.trans (transferAccepted s c _ hc hidle hp)⟩

/-- Settles O24: SHUTDOWN begins the transfer of the black Frame, marked as the closing one. -/
theorem shutdownAccepted : Obligations.ShutdownAccepted := by
  intro s c hc hidle
  rw [exec_shutdown hc, startTransaction_eq_begin _ true s hidle, encodeFrame_blackFrame]
  rfl

/-- Settles O28: each of the three operations starts its payload, which on a busy bus is an overlap. -/
theorem overlapMarksConflict : Obligations.OverlapMarksConflict := by
  intro s c p cl i hc hbusy hi
  have hstart : exec i s = .next (s.startTransaction p cl) := by
    obtain ⟨rfl, hp, rfl⟩ | ⟨f, rfl, hlength, rfl, rfl⟩ | ⟨rfl, rfl, rfl⟩ := hi
    · exact exec_transfer_of_wellFormed hc hp
    · exact exec_showFrame_of_length hc hlength
    · exact exec_shutdown hc
  rw [hstart, startTransaction_eq_overlap p cl s hbusy]
  rfl

end Sys2Proof.Machine
end

section
/-! Which payloads TRANSFER accepts (R83): well-formedness byte by byte, and every well-formed payload as the
encoding of a Frame. -/

namespace Sys2Proof.Machine

/-! ### Byte by byte -/

theorem isSymbol_eq_true (v : Byte) : isSymbol v = true ↔ v = 0x04#8 ∨ v = 0x06#8 := by
  simp [isSymbol, Config.symZero, Config.symOne]

theorem forall_mem_take_iff {α : Type} {l : List α} {n : Nat} {P : α → Prop} :
    (∀ a ∈ l.take n, P a) ↔ ∀ i a, i < n → l[i]? = some a → P a := by
  simp only [List.mem_iff_getElem?, List.getElem?_take]
  refine ⟨fun h i a hi ha => h a ⟨i, (if_pos hi).trans ha⟩, fun h a ⟨i, ha⟩ => ?_⟩
  split at ha
  · next hi => exact h i a hi ha
  · cases ha

theorem forall_mem_drop_iff {α : Type} {l : List α} {n : Nat} {P : α → Prop} :
    (∀ a ∈ l.drop n, P a) ↔ ∀ i a, n ≤ i → l[i]? = some a → P a := by
  simp only [List.mem_iff_getElem?, List.getElem?_drop]
  exact ⟨fun h i a hi ha => h a ⟨i - n, by rwa [Nat.add_sub_cancel' hi]⟩,
    fun h a ⟨i, ha⟩ => h (n + i) a (Nat.le_add_right n i) ha⟩

/-- The three conditions of R83, on the places of the payload. -/
theorem payloadWellFormed_iff (n : Nat) (p : Payload) :
    payloadWellFormed n p = true ↔
      p.length = 24 * n + 64 ∧
      (∀ i v, i < 24 * n → p[i]? = some v → v = 0x04#8 ∨ v = 0x06#8) ∧
      ∀ i v, 24 * n ≤ i → p[i]? = some v → v = 0x00#8 := by
  simp only [payloadWellFormed, Bool.and_eq_true, beq_iff_eq, List.all_eq_true, payloadLength_eq, and_assoc,
    isSymbol_eq_true, forall_mem_take_iff, forall_mem_drop_iff, Config.padByte]

/-! ### Every list of data bits is that of a Frame -/

/-- Eight bits are those of a channel value. -/
theorem exists_chanBits {l : List Bool} (h : l.length = 8) : ∃ v, chanBits v = l := by
  match l, h with
  | [a, b, c, d, e, f, g, i], _ =>
    refine ⟨chanOfBits [a, b, c, d, e, f, g, i], ?_⟩
    revert a b c d e f g i
    decide

/-- Twenty-four bits are those of a color. -/
theorem exists_grbBits {l : List Bool} (h : l.length = 24) : ∃ c, grbBits c = l := by
  obtain ⟨g, hg⟩ := exists_chanBits (l := l.take 8) (by simp [h])
  obtain ⟨r, hr⟩ := exists_chanBits (l := (l.drop 8).take 8) (by simp [h])
  obtain ⟨b, hb⟩ := exists_chanBits (l := (l.drop 8).drop 8) (by simp [h])
  refine ⟨⟨g, r, b⟩, ?_⟩
  rw [grbBits, hg, hr, hb, List.append_assoc, List.take_append_drop, List.take_append_drop]

/-- At brightness 1 a triple is shown as it is (R75), so that every color is shown for some triple. -/
theorem shownColor_full (c : Grb) : shownColor scale ⟨1, 1⟩ ⟨c.r, c.g, c.b⟩ = c := by
  simp only [shownColor, scaleRgb, reorder, scale_full _ (b := ⟨1, 1⟩) rfl rfl]

/-- Data bits of `n` LEDs are those of a Frame at brightness 1. -/
theorem exists_frame_of_bits (n : Nat) {bits : List Bool} (h : bits.length = 24 * n) :
    ∃ f : Frame, f.length = n ∧ (f.flatMap fun t => grbBits (shownColor scale ⟨1, 1⟩ t)) = bits := by
  induction n generalizing bits with
  | zero => exact ⟨[], rfl, (List.length_eq_zero_iff.1 h).symm⟩
  | succ n ih =>
    obtain ⟨c, hc⟩ := exists_grbBits (l := bits.take 24) (by rw [List.length_take]; omega)
    obtain ⟨f, hf, hbits⟩ := ih (bits := bits.drop 24) (by rw [List.length_drop]; omega)
    refine ⟨⟨c.r, c.g, c.b⟩ :: f, congrArg (· + 1) hf, ?_⟩
    rw [List.flatMap_cons, shownColor_full, hc, hbits, List.take_append_drop]

/-- A payload is well-formed exactly when it encodes a Frame at brightness 1 (R83). -/
theorem payloadWellFormed_iff_encodeFrame (n : Nat) (p : Payload) :
    payloadWellFormed n p = true ↔ ∃ f : Frame, f.length = n ∧ p = encodeFrame scale ⟨1, 1⟩ f := by
  constructor
  · intro h
    obtain ⟨bits, hbits, rfl⟩ := payloadWellFormed_split h
    obtain ⟨f, hf, hsame⟩ := exists_frame_of_bits n hbits
    exact ⟨f, hf, by rw [encodeFrame_eq, hsame]⟩
  · rintro ⟨f, rfl, rfl⟩
    exact encodeFrame_wellFormed scale ⟨1, 1⟩ f

/-- Settles O27: the two readings of well-formedness, and TRANSFER checks just that on an open block. -/
theorem transferAcceptsExactlyPayloads : Obligations.TransferAcceptsExactlyPayloads :=
  ⟨payloadWellFormed_iff, payloadWellFormed_iff_encodeFrame, fun _ _ p hc =>
    ⟨fun hp => ⟨_, exec_transfer_of_wellFormed hc hp⟩,
      fun hp => (exec_transfer p hc).trans (if_neg (ne_true_of_eq_false hp))⟩⟩

end Sys2Proof.Machine
end

section
/-! One byte of the framer as an instruction (R84, R85, R87, R88): it goes out, it is the last, or the bus fails
before or after it; and whose byte it is after an overlap (R95). -/

namespace Sys2Proof.Machine

/-! ### The framer's loop for each answer of the bus -/

theorem sendByte_of_ok {s : State} {j : Job} (v : Byte) (h : Sending s j) (hbus : s.bus = .ok) :
    s.sendByte v = .next ((s.emit v j).afterByte j) := by
  rw [sendByte_eq v h, hbus]

theorem sendByte_of_failBefore {s : State} {j : Job} {c : Nat} (v : Byte) (h : Sending s j)
    (hbus : s.bus = .failBefore c) : s.sendByte v = .next (s.failTransaction j c) := by
  rw [sendByte_eq v h, hbus]

theorem sendByte_of_failAfter {s : State} {j : Job} {c : Nat} (v : Byte) (h : Sending s j)
    (hbus : s.bus = .failAfter c) : s.sendByte v = .next ((s.emit v j).failTransaction j c) := by
  rw [sendByte_eq v h, hbus]

/-- Each of the three instructions of the code book sends its byte (R50, R51). -/
theorem exec_codeByte {i : Instr} {v : Byte}
    (h : (i = .symZero ∧ v = 0x04#8) ∨ (i = .symOne ∧ v = 0x06#8) ∨ (i = .padByte ∧ v = 0x00#8)) :
    isCodeByte v = true ∧ ∀ s, exec i s = s.sendByte v := by
  obtain ⟨rfl, rfl⟩ | ⟨rfl, rfl⟩ | ⟨rfl, rfl⟩ := h
  · exact ⟨rfl, fun _ => rfl⟩
  · exact ⟨rfl, fun _ => rfl⟩
  · exact ⟨rfl, fun _ => rfl⟩

/-- A byte with more to follow only goes out. -/
theorem afterByte_emit_of_more {s : State} {j : Job} (v : Byte) (h : s.pos + 1 < j.payload.length) :
    (s.emit v j).afterByte j = s.emit v j := by
  obtain ⟨-, -, -, hpos, -⟩ := emit_frame v j s
  exact if_neg (by omega)

/-- With the last byte the transaction is complete (R87). -/
theorem afterByte_emit_of_last {s : State} {j : Job} (v : Byte) (h : j.payload.length ≤ s.pos + 1) :
    (s.emit v j).afterByte j = (s.emit v j).completeTransaction j := by
  obtain ⟨-, -, -, hpos, -⟩ := emit_frame v j s
  exact if_pos (by omega)

/-- Settles O30: with bytes left the step is `emit` alone, with the chain fed or, after an overlap,
unspecified. -/
theorem byteGoesOut : Obligations.ByteGoesOut := by
  intro s j i v hi hj hbus hmore
  obtain ⟨hv, hexec⟩ := exec_codeByte hi
  rw [hexec, sendByte_of_ok v hj hbus, afterByte_emit_of_more v hmore]
  refine ⟨fun hconflict => ?_, fun hconflict => ?_⟩
  · rw [emit_eq_sent v j s hv hconflict, State.sent, hbus]
  · rw [emit_eq v j s hv, if_pos hconflict, State.byteOut, State.disturbChain, hbus]

/-- Settles O31: the byte goes out, then completion with nothing waiting. -/
theorem lastByteCompletes : Obligations.LastByteCompletes := by
  intro s j i v hi hj hs hbus hlast
  obtain ⟨hv, hexec⟩ := exec_codeByte hi
  obtain ⟨hconflict, hparked⟩ := hs
  rw [hexec, sendByte_of_ok v hj hbus, afterByte_emit_of_last v hlast, emit_eq_sent v j s hv hconflict,
    completeTransaction_eq j (s.sent v j) hconflict hparked, hbus]
  rfl

/-- Settles O32: the failure of a transaction behind which nothing waits, whichever byte was next. -/
theorem busFailureBeforeByte : Obligations.BusFailureBeforeByte := by
  intro s j c i hi hj hparked hbus
  obtain ⟨v, hexec⟩ : ∃ v, ∀ s, exec i s = s.sendByte v := by
    obtain rfl | rfl | rfl := hi <;> exact ⟨_, fun _ => rfl⟩
  rw [hexec, sendByte_of_failBefore v hj hbus, failTransaction_eq j c s hparked]

/-- Settles O33: the byte goes out, then the failure with nothing waiting. -/
theorem busFailureAfterByte : Obligations.BusFailureAfterByte := by
  intro s j c i v hi hj hs hbus
  obtain ⟨hv, hexec⟩ := exec_codeByte hi
  obtain ⟨hconflict, hparked⟩ := hs
  rw [hexec, sendByte_of_failAfter v hj hbus, emit_eq_sent v j s hv hconflict,
    failTransaction_eq j c (s.sent v j) hparked]
  rfl

/-! ### After an overlap -/

/-- The operation that the turn picks takes the line, and the other waits in its place (R95). -/
theorem selectJob_of_waiting {s : State} {j : Job} {p : Parked} {pick : Nat} (hj : s.job = some j)
    (hp : s.parked[pick]? = some p) :
    s.selectJob pick =
      { s with job := some p.job, pos := p.pos, parked := s.parked.set pick ⟨j, s.pos⟩ } := by
  simp only [State.selectJob, hj, hp]

/-- Settles O38: the turn hands the line over before the byte at `pos` is fetched. -/
theorem overlappingBytesInterleave : Obligations.OverlappingBytesInterleave := by
  intro s j p v i pick ev ts hport hj hturns hp hbyte hdecode
  obtain ⟨hbusy, hjob⟩ := hj
  have hselect := selectJob_of_waiting (s := { s.tick with turns := ts }) hjob hp
  have hfetch : fetch s = fetchByte { State.selectJob pick { s.tick with turns := ts } with bus := ev } := by
    simp only [fetch, hport, hturns]
    exact fetchTurn_bus_busy (s := { s.tick with turns := ts }) pick ev hbusy
  rw [step, hfetch, hselect, fetchByte_eq rfl hbyte hdecode]
  rfl

end Sys2Proof.Machine
end

section
/-! Whole transactions to their end (R33, R36, R86, R92): from the first byte, from a TRANSFER, from a
SHUTDOWN. -/

namespace Sys2Proof.Machine

/-- Undisturbed from its first byte on, a well-formed payload is out after one step for each byte. -/
theorem Progress.run_payload {s : State} {j : Job} {n : Nat} (h : Progress s j 0 s) (hu : Undisturbed s)
    (hp : payloadWellFormed n j.payload = true) :
    ∃ t, Host.Core.run core (24 * n + 64) s = .next t ∧ Completed s j t := by
  obtain ⟨t, hrun, -, hcomplete⟩ := h.run_undisturbed (n := 24 * n + 63) hu
    (fun v hv => payloadWellFormed_mem hp hv) ((Nat.zero_add _).trans (payloadWellFormed_length hp).symm)
  exact ⟨t, hrun, hcomplete⟩

/-- Settles O41: the bytes go out one a step, and the record that was empty holds them all. -/
theorem transactionRunsToCompletion : Obligations.TransactionRunsToCompletion := by
  intro s j n hu hj hs hpos hp hrecord
  obtain ⟨t, hrun, h⟩ := (Progress.zero hj hs hpos).run_payload hu hp
  refine ⟨t, hrun, h.rest.busy, h.pos, h.sdo, h.busConflict, ?_, h.line, h.chain, h.res, h.status, h.opened,
    h.cfg, h.platform⟩
  rw [h.wire, List.modify_eq_set_getElem?, hrecord]
  rfl

/-- An operation accepted on an idle bus that nothing overlaps runs to completion. -/
theorem beginTransaction_run {s : State} {n : Nat} {p : Payload} (cl : Bool) (hs : NoOverlap s)
    (hgo : FramerGoesOn s) (hp : payloadWellFormed n p = true) :
    ∃ t, Host.Core.run core (24 * n + 64) (s.beginTransaction p cl) = .next t ∧
      Completed (s.beginTransaction p cl) (s.acceptedJob p cl) t :=
  (beginTransaction_progress p cl hs).run_payload ⟨rfl, hgo⟩ hp

/-- Settles O42: the accepted payload goes out whole, and the latch leaves `k` at 0. -/
theorem transferSendsPayload : Obligations.TransferSendsPayload := by
  intro s c p hc hidle hs hgo hp
  obtain ⟨t, hrun, h⟩ := beginTransaction_run false hs hgo hp
  refine ⟨_, t, ?_, hrun, h.wire.trans (beginTransaction_wire_modify s p false), h.res, h.rest.busy, h.pos,
    h.sdo, ⟨h.busConflict, h.rest.parked⟩, ⟨?_, h.cfg.trans hc.2⟩, ?_⟩
  · rw [exec_transfer_of_wellFormed hc hp, startTransaction_eq_begin p false s hidle]
  · rw [h.opened, State.beginTransaction_opened, hc.1]
    rfl
  · rw [h.chain, latch_k]

/-! ### A block that has been shut down -/

/-- The block was configured and is open no more (R92). -/
structure ShutDown (s : State) : Prop where
  opened : s.opened = false
  cfg : ∃ c, s.cfg = some c

/-- Only an INIT on a block that has no configuration could open it again (R9, R81). -/
theorem ShutDown.step {s t : State} (hs : ShutDown s) (h : step s = .next t) : ShutDown t := by
  obtain ⟨c, hc⟩ := hs.cfg
  refine ⟨?_, c, (configurationIsConstant s t h).1 c hc⟩
  by_contra ht
  obtain ⟨hnone, -⟩ := (onlyInitOpensOnlyShutdownCloses s t h).1 hs.opened (by simpa using ht)
  simp [hc] at hnone

/-- Black is shown as black at every brightness, as its fragment says. -/
theorem shownColor_black (b : Ratio) : shownColor scale b Rgb.black = ⟨0, 0, 0⟩ :=
  fragmentOf_injective ((encodeLed_black b).trans rfl)

/-- A chain of the Frame's length with `k = 0` shows black after the black Frame (R44, R92). -/
theorem latch_blackFrame_display (b : Ratio) (n d : Nat) {c : Chain} (hk : c.k = some 0)
    (hshadow : c.shadow.length = 24 * n) (hdisplay : c.display.length = n) :
    (((encodeFrame scale b (blackFrame n)).foldl (fun c v => c.takeByte n v) c).latch n d).display =
      List.replicate n ⟨0, 0, 0⟩ := by
  have h := latch_encodeFrame_display scale b (blackFrame n) d hk (by rwa [blackFrame_length])
    (by rwa [blackFrame_length])
  rw [blackFrame_length, blackFrame, List.map_replicate, shownColor_black] at h
  exact h

/-- Settles O43: the black Frame is shown, `opened` falls with the end of its transaction, and the block stays
shut down over every step. -/
theorem shutdownClearsAndCloses : Obligations.ShutdownClearsAndCloses := by
  intro s c hc hidle hs hgo hmatches hfits hk
  obtain ⟨hshadow, hdisplay⟩ := hfits
  rw [hmatches] at hshadow hdisplay
  obtain ⟨t, hrun, h⟩ :=
    beginTransaction_run true hs hgo (encodeFrame_blackFrame_wellFormed c.brightness c.ledCount)
  have hclosed : t.opened = false := h.opened.trans (Bool.and_false _)
  refine ⟨_, t, ?_, hrun, h.res, hclosed, h.rest.busy, ?_, fun k u hu => ?_⟩
  · rw [exec_shutdown hc, startTransaction_eq_begin _ true s hidle]
  · rw [h.chain, State.beginTransaction_platform, hmatches]
    exact latch_blackFrame_display c.brightness c.ledCount _ hk hshadow hdisplay
  · have hshut : ShutDown u :=
      run_induction (fun _ _ hs hstep => hs.step hstep) ⟨hclosed, c, h.cfg.trans hc.2⟩ hu
    exact ⟨hshut.opened, refusedWhileNotOpened u hshut.opened⟩

end Sys2Proof.Machine
end

section
/-! Operands outside their domain (R101, R81, R83): what the operand readers do not take, and what a request then
decodes to. -/

namespace Sys2Proof.Machine

/-! ### The operand readers -/

/-- A channel or byte outside 0..255 is not read at all, so neither clamped nor wrapped (R46, R101). -/
theorem byteOfInt?_eq_none {x : Int} (h : ¬ (0 ≤ x ∧ x ≤ 255)) : byteOfInt? x = none := if_neg h

theorem byteOfInt?_range {x : Int} {v : Byte} (h : byteOfInt? x = some v) : 0 ≤ x ∧ x ≤ 255 := by
  by_contra hx
  simp [byteOfInt?_eq_none hx] at h

/-- A triple is read only when all three of its channels are. -/
theorem toRgb?_eq_none {t : RawRgb}
    (h : ¬ (0 ≤ t.r ∧ t.r ≤ 255 ∧ 0 ≤ t.g ∧ t.g ≤ 255 ∧ 0 ≤ t.b ∧ t.b ≤ 255)) : t.toRgb? = none := by
  rw [RawRgb.toRgb?]
  split
  · next r g b hr hg hb =>
    obtain ⟨hr₀, hr₁⟩ := byteOfInt?_range hr
    obtain ⟨hg₀, hg₁⟩ := byteOfInt?_range hg
    exact absurd ⟨hr₀, hr₁, hg₀, hg₁, byteOfInt?_range hb⟩ h
  · rfl

theorem frameOfRaw?_eq_none_of_mem {f : List RawRgb} {t : RawRgb} (hmem : t ∈ f) (ht : t.toRgb? = none) :
    frameOfRaw? f = none := by
  induction hmem with
  | head => simp [frameOfRaw?, ht]
  | tail _ _ ih => simp [frameOfRaw?, ih]

theorem payloadOfRaw?_eq_none_of_mem {p : List Int} {x : Int} (hmem : x ∈ p) (hx : byteOfInt? x = none) :
    payloadOfRaw? p = none := by
  induction hmem with
  | head => simp [payloadOfRaw?, hx]
  | tail _ _ ih => simp [payloadOfRaw?, ih]

theorem initOfRaw?_eq_none {c : RawConfig}
    (h : ¬ (0 ≤ c.ledCount ∧ 0 < c.den ∧ 0 ≤ c.num ∧ c.num ≤ c.den ∧ 0 < c.speed.num ∧ 0 < c.speed.den)) :
    initOfRaw? c = none := by
  refine if_neg ?_
  rwa [isRate_iff, and_comm (a := 0 < c.speed.den)]

/-! ### What the request decodes to -/

/-- A Frame operand is taken by two operations, ENCODE_FRAME and SHOW. -/
theorem decodeRequest_frame_of_none {op : Selector} {f : List RawRgb} (hop : op = 0b010#3 ∨ op = 0b100#3)
    (h : frameOfRaw? f = none) : decodeRequest op (.frame f) = .error .channelOutOfRange := by
  obtain rfl | rfl := hop <;> simp [decodeRequest, h]

/-- The six selectors that name an operation (R58). -/
theorem selector_cases {op : Selector} : op.toNat ≤ 5 →
    op = 0b000#3 ∨ op = 0b001#3 ∨ op = 0b010#3 ∨ op = 0b011#3 ∨ op = 0b100#3 ∨ op = 0b101#3 := by
  revert op
  decide

/-- Operation by operation, each kind of operand either fits or is a mismatch (R57). -/
theorem decodeRequest_of_not_operandFits {op : Selector} {o : Operand} (hop : op.toNat ≤ 5)
    (hfit : operandFits op o = false) : decodeRequest op o = .error .operandMismatch := by
  obtain rfl | rfl | rfl | rfl | rfl | rfl := selector_cases hop <;> cases o <;> cases hfit <;> rfl

/-- Settles O6: each operand outside its domain has a decoding error, which is what the step is refused with. -/
theorem outOfDomainOperandsRefused : Obligations.OutOfDomainOperandsRefused := by
  refine ⟨fun s q t hport ht => ?_, fun s q op f t hport hop hmem ht => ?_,
    fun s q p x hport hmem hx => ?_, fun s q c hport hc => ?_, fun s p hport hop hfit => ?_⟩
  all_goals refine step_of_port_error hport ?_
  · simp [decodeRequest, toRgb?_eq_none ht]
  · exact decodeRequest_frame_of_none hop (frameOfRaw?_eq_none_of_mem hmem (toRgb?_eq_none ht))
  · simp [decodeRequest, payloadOfRaw?_eq_none_of_mem hmem (byteOfInt?_eq_none hx)]
  · simp [decodeRequest, initOfRaw?_eq_none hc]
  · exact decodeRequest_of_not_operandFits hop hfit

end Sys2Proof.Machine
end

section
/-! The refusals of the bus operations (R104): they are decided before the framer is looked at. -/

namespace Sys2Proof.Machine

/-- The three operations that use the bus (R82, R90, R92). -/
def IsBusOperation (i : Instr) : Prop := (∃ p, i = .transfer p) ∨ (∃ f, i = .showFrame f) ∨ i = .shutdown

theorem exec_refused_of_operative_eq_none {s : State} {i : Instr} (hi : IsBusOperation i)
    (h : s.operative = none) : exec i s = .refused .notOpened := by
  obtain ⟨p, rfl⟩ | ⟨f, rfl⟩ | rfl := hi
  · rw [exec, execTransfer, h]
  · rw [exec, execShow, h]
  · rw [exec, execShutdown, h]

/-- An operation with one check is refused for that check alone, whatever it would have answered. -/
theorem ite_next_eq_refused_iff {P : Prop} [Decidable P] (t : State) (a r : Refusal) :
    (if P then .next t else .refused a : Host.Outcome State Fault Refusal) = .refused r ↔ ¬ P ∧ a = r := by
  split <;> simp [*]

/-- On an open block the check is against CFG (R83 for a payload, R35 for a Frame, none for SHUTDOWN). -/
theorem exec_refused_iff_of_configured {s s' : State} {c : CfgRegs} {i : Instr} {r : Refusal}
    (hi : IsBusOperation i) (hc : Configured s c) (hc' : Configured s' c) :
    exec i s = .refused r ↔ exec i s' = .refused r := by
  obtain ⟨p, rfl⟩ | ⟨f, rfl⟩ | rfl := hi
  · simp only [exec_transfer p hc, exec_transfer p hc', ite_next_eq_refused_iff]
  · simp only [exec_showFrame f hc, exec_showFrame f hc', ite_next_eq_refused_iff]
  · simp only [exec_shutdown hc, exec_shutdown hc', reduceCtorEq]

/-- Settles O35: `opened` and CFG make up what the operations check, the configuration of an open block. -/
theorem refusalsPrecedeOverlapCheck : Obligations.RefusalsPrecedeOverlapCheck := by
  intro s s' i r hopened hcfg hi
  have hsame : s'.operative = s.operative := by rw [State.operative, State.operative, hopened, hcfg]
  cases h : s.operative with
  | none =>
    rw [exec_refused_of_operative_eq_none hi h, exec_refused_of_operative_eq_none hi (hsame.trans h)]
  | some c =>
    exact exec_refused_iff_of_configured hi (operative_eq_some.1 h) (operative_eq_some.1 (hsame.trans h))

end Sys2Proof.Machine
end

section
/-! The first complete transaction after a failure (R43, R122, U7): a chain whose `k` is unknown takes no bit, and
its latch shows a free value. -/

namespace Sys2Proof.Machine

/-- A chain whose `k` is unknown takes no byte: the symbols' bits go nowhere, a pad byte has none. -/
theorem takeByte_of_unknown (len : Nat) (v : Byte) {c : Chain} (hk : c.k = none) : c.takeByte len v = c := by
  have hbit (d : Bool) : c.takeBit len d = c := by rw [Chain.takeBit, hk]
  rw [Chain.takeByte, hbit, hbit, ite_self, ite_self]

theorem foldl_takeByte_of_unknown (len : Nat) (p : Payload) {c : Chain} (hk : c.k = none) :
    p.foldl (fun c v => c.takeByte len v) c = c := by
  induction p with
  | nil => rfl
  | cons v p ih => rw [List.foldl_cons, takeByte_of_unknown len v hk, ih]

/-- With `k` unknown the latch shows a free value. -/
theorem latch_display_of_unknown (len d : Nat) {c : Chain} (hk : c.k = none) :
    (c.latch len d).display = (Chain.unspecified d len).display := by
  rw [Chain.latch, hk]

/-- Settles O45: undisturbed, the transaction runs to completion; its bytes leave the chain as it was, and the
latch alone brings `k` back. -/
theorem firstTransactionAfterFailureResynchronises :
    Obligations.FirstTransactionAfterFailureResynchronises := by
  intro s c f hc hidle hs hgo hlength hk
  generalize hp : encodeFrame scale c.brightness f = p
  have hwf : payloadWellFormed c.ledCount p = true :=
    hp ▸ hlength ▸ encodeFrame_wellFormed scale c.brightness f
  obtain ⟨t, hrun, ⟨-, hgo'⟩, h⟩ := (beginTransaction_progress p false hs).run_undisturbed
    (n := 24 * c.ledCount + 63) ⟨rfl, hgo⟩ (fun v hv => payloadWellFormed_mem hwf hv)
    ((Nat.zero_add _).trans (payloadWellFormed_length hwf).symm)
  have hchain : t.chain = s.chain.latch s.platform.chainLen s.draws :=
    h.chain.trans (congrArg (Chain.latch _ _) (foldl_takeByte_of_unknown _ p hk))
  refine ⟨_, t, ?_, hrun, h.rest.busy, ⟨h.busConflict, h.rest.parked⟩, hgo', ⟨?_, h.cfg.trans hc.2⟩, ?_, ?_⟩
  · rw [exec_showFrame_of_length hc hlength, startTransaction_eq_begin _ false s hidle, hp]
  · exact h.opened.trans ((Bool.and_true _).trans hc.1)
  · rw [hchain, latch_k]
  · rw [hchain, latch_display_of_unknown _ _ hk]

end Sys2Proof.Machine
end

section
/-! The bit periods of a transaction (R128). -/

namespace Sys2Proof.Machine

theorem lineOf_payload_length (m : WireMode) {n : Nat} {p : Payload} (hp : payloadWellFormed n p = true) :
    (lineOf m p).length = periodsPerByte m * (24 * n + 64) := by
  rw [lineOf_length, payloadWellFormed_length hp]

/-- Settles O48: eight periods for each of the payload's bytes in the W8 modes, three in W3_MSB. -/
theorem periodsPerTransaction : Obligations.PeriodsPerTransaction := by
  intro n p hp
  simp only [lineOf_payload_length _ hp, periodsPerByte]
  omega

end Sys2Proof.Machine
end

section
/-! The block before INIT and after a run (R27, R116, R130). -/

namespace Sys2Proof.Machine

/-- When a run has ended no requester has a request left. -/
theorem RunEnded.no_request {s : State} (h : RunEnded s) (n : Nat) :
    s.programs[n]? = none ∨ s.programs[n]? = some [] := by
  obtain ⟨-, -, hprograms⟩ := h
  cases hn : s.programs[n]? with
  | none => exact .inl rfl
  | some l => exact .inr (congrArg some (hprograms l (List.mem_of_getElem? hn)))

theorem RunEnded.issue {s : State} (h : RunEnded s) (n : Nat) : s.issue n = s :=
  issue_of_no_request (h.no_request n)

theorem RunEnded.firstReady {s : State} (h : RunEnded s) : s.firstReady = none := by
  refine List.find?_eq_none.2 fun n _ => ?_
  obtain hn | hn := h.no_request n <;> simp [State.ready, hn]

/-- What a step delivers and the turns laid down have no part in the end of a run. -/
theorem RunEnded.outside {s : State} (h : RunEnded s) (ts : List Turn) :
    RunEnded { s.tick with turns := ts } := h

/-- When a run has ended the machine finds nothing to run, whatever turn is next. -/
theorem RunEnded.fetch {s : State} (h : RunEnded s) :
    fetch s = .quiet { s.tick with turns := s.turns.tail } := by
  have ⟨hidle, hport, _⟩ := h
  cases ht : s.turns with
  | nil =>
    have hsame : ({ s.tick with turns := [].tail } : State) = s.tick := by simp [State.tick, ht]
    simp only [Machine.fetch, hport, ht, hsame]
    rw [fetchDefault_idle (s := s.tick) hidle, RunEnded.firstReady (s := s.tick) h]
  | cons u ts =>
    simp only [Machine.fetch, hport, ht, List.tail_cons]
    cases u with
    | issue n => exact congrArg Fetched.quiet ((h.outside ts).issue n)
    | bus pick ev => exact fetchTurn_bus_idle (s := { s.tick with turns := ts }) pick ev hidle

/-- Settles O40: the step does nothing but empty the ports and take the turn. -/
theorem endedRunStaysIdle : Obligations.EndedRunStaysIdle := by
  intro s h
  rw [step, h.fetch]
  rfl

/-- Settles O52: block reset gives each of these its value whatever the platform, and `State.reset` is that of the
default platform. -/
theorem blockReset : Obligations.BlockReset :=
  ⟨⟨Platform.default, rfl⟩, fun p => ⟨rfl, rfl, rfl, rfl, rfl, rfl, rfl, rfl, rfl, rfl, rfl, rfl,
    unspecified_k 0 p.chainLen⟩⟩

end Sys2Proof.Machine
end

section
/-! A byte of the code book outside a transaction (log entry 22). -/

namespace Sys2Proof.Machine

/-- The framer has no byte to send on an idle bus. -/
theorem sendByte_of_not_busy {s : State} (v : Byte) (h : s.busy = false) :
    s.sendByte v = .fault .noTransaction := by
  rw [State.sendByte, h]

/-- Settles O34: each of the three instructions sends its byte, and an idle bus has none to send. -/
theorem byteWithoutTransactionFaults : Obligations.ByteWithoutTransactionFaults := by
  intro s i hi hidle
  obtain rfl | rfl | rfl := hi
  · exact sendByte_of_not_busy Config.symZero hidle
  · exact sendByte_of_not_busy Config.symOne hidle
  · exact sendByte_of_not_busy Config.padByte hidle

end Sys2Proof.Machine
end
